-- ==== Sys2Proof/Word.lean ====
section
/-! DEFINITION. The plain data words of XFC-1 (spec/00_scope.md R9, spec/20_memory.md R50): the command word, the byte, the
bitmap. -/

namespace Sys2Proof

/-- A text character, a colour channel, an 8-bit operand field (R9, R90). -/
abbrev Byte := BitVec 8

/-- A command word: one 32-bit number presented whole (R90). -/
abbrev Command := BitVec 32

/-- The bitmap `B`, 48 rows of 48 one-bit cells; bit x of row y is the pixel (x, y), 1 for black (R50, R170). -/
abbrev Bitmap := Vector (BitVec 48) 48

end Sys2Proof
end

