-- ==== Sys2Proof/Machine/Operands.lean ====
section
/-! DEFINITION. The operand forms of XFC-1: the ranges of spec/30_encoding.md R93 and what a region operand stands for
(spec/44_quadtree.md R190). -/

namespace Sys2Proof.Machine

/-- `ROWS(t)`: three rows for a level table, sixteen for the leaf table; no other table exists (R12, R140). -/
def rowCount (t : Nat) : Nat := if t ≤ 3 then 3 else if t = 4 then 16 else 0

/-- The table selector of POP and PUSH is 0..4 (R140). -/
def selectorOk (t : Byte) : Bool := t.toNat ≤ 4

/-- The row number of PUSH is below `ROWS(t)` (R140). -/
def rowOk (t r : Byte) : Bool := r.toNat < rowCount t.toNat

/-- Pixel coordinates are 0..47 each (R172). -/
def coordinateOk (x y : Byte) : Bool := x.toNat ≤ 47 && y.toNat ≤ 47

/-- The size of a region of level l: `16 div 2^l` (R190). -/
def regionSize (l : BitVec 2) : Nat := 16 / 2 ^ l.toNat

/-- How many halvings separate a region of level l from a 2×2 block: its size is `2^(height + 1)` (R190). -/
def regionHeight (l : BitVec 2) : Nat := 3 - l.toNat

/-- A region operand is aligned to its size and inside the grid (R63, R190). -/
def regionOk (x y : Byte) (l : BitVec 2) : Bool :=
  x.toNat % regionSize l = 0 && y.toNat % regionSize l = 0 &&
    x.toNat + regionSize l ≤ 48 && y.toNat + regionSize l ≤ 48

end Sys2Proof.Machine
end

