-- ==== Sys2Proof/Syntax.lean ====
section
/-! DEFINITION. The 31 commands of XFC-1 (spec/30_encoding.md R94), one constructor for each row of spec/opcode_table.json, in
the table's order. An operand is the field of the command word as it stands (R99), so a term may hold an operand outside the
range of R93: WellFormed.lean names those. -/

namespace Sys2Proof

inductive Instr where
  /-- Does nothing (R250). -/
  | nop
  /-- Clear V (R126). -/
  | vclr
  /-- Multiply V by `m` and add `add` (R127). -/
  | vmad (m : BitVec 16) (add : Byte)
  /-- Divide V by `d`, the remainder to R (R128). -/
  | vdiv (d : BitVec 16)
  /-- Byte `i` of V to R (R130). -/
  | vrd (i : BitVec 16)
  /-- Pop a symbol of table `t` (R141). -/
  | pop (t : Byte)
  /-- Push row `r` of table `t` (R143). -/
  | push (t r : Byte)
  /-- Begin a text (R152). -/
  | txbeg
  /-- Fold the character `ch` into V (R153). -/
  | txin (ch : Byte)
  /-- Extract one base-94 digit of V (R158). -/
  | txdig
  /-- Reverse the text buffer (R159). -/
  | txrev
  /-- Turn V into text (R160). -/
  | txout
  /-- Byte `i` of the text buffer to R (R162). -/
  | trd (i : BitVec 16)
  /-- Clear the bitmap to white (R173). -/
  | bclr
  /-- Set the raster pointer to pixel (x, y) (R172). -/
  | bptr (x y : Byte)
  /-- Stream one binary pixel (R174). -/
  | bbit (v : BitVec 1)
  /-- Stream one colour pixel (R176). -/
  | brgb (red green blue : Byte)
  /-- Read the pixel at the raster pointer (R177). -/
  | brd
  /-- Write pixel (x, y) (R178). -/
  | bset (x y : Byte) (v : BitVec 1)
  /-- Read pixel (x, y) (R179). -/
  | bget (x y : Byte)
  /-- Decode the leaf patterns of a region (R193). -/
  | dleaf (x y : Byte) (l : BitVec 2)
  /-- Decode a region (R195). -/
  | drg (x y : Byte) (l : BitVec 2)
  /-- Encode the leaf patterns of a region (R201). -/
  | eleaf (x y : Byte) (l : BitVec 2)
  /-- Encode a region (R203). -/
  | erg (x y : Byte) (l : BitVec 2)
  /-- Filter the bitmap, encode direction (R221). -/
  | fenc
  /-- Filter the bitmap, decode direction (R222). -/
  | fdec
  /-- Decode V to a bitmap (R237). -/
  | dec
  /-- Encode the bitmap, declared w by h, to text (R239). -/
  | enc (w h : Byte)
  /-- The header constants of a non-empty text (R243). -/
  | hdr
  /-- Leave the faulted state (R251). -/
  | eclr
  /-- Soft reset (R252). -/
  | srst
deriving DecidableEq, Repr

end Sys2Proof
end

