-- ==== Sys2Proof/WellFormed.lean ====
section
/-! DEFINITION. Which terms of Instr stand for a legal command: the operand ranges of spec/30_encoding.md R93 that do not read
state (R98: all but TRD's). -/

namespace Sys2Proof

/-- Why a word is no legal command. Every one of them raises ILLEGAL_COMMAND; the name only says which test failed (R262). -/
inductive Illegal where
  /-- The opcode is not in the map (R96). -/
  | unknownOpcode
  /-- A must-be-zero bit is set (R92). -/
  | mustBeZero
  /-- A table selector above 4 (R140). -/
  | tableSelector
  /-- A row number not below the table's row count (R140). -/
  | rowNumber
  /-- A pixel coordinate above 47 (R172). -/
  | coordinate
  /-- A region not aligned or not inside the grid (R190). -/
  | region
deriving DecidableEq, Repr

/-- The first range of R93 that the operands of a command break, if any. -/
def Instr.violation : Instr → Option Illegal
  | .pop t => if Machine.selectorOk t then none else some .tableSelector
  | .push t r =>
    if !Machine.selectorOk t then some .tableSelector
    else if Machine.rowOk t r then none else some .rowNumber
  | .bptr x y | .bset x y _ | .bget x y => if Machine.coordinateOk x y then none else some .coordinate
  | .dleaf x y l | .drg x y l | .eleaf x y l | .erg x y l =>
    if Machine.regionOk x y l then none else some .region
  | .nop | .vclr | .vmad .. | .vdiv _ | .vrd _ | .txbeg | .txin _ | .txdig | .txrev | .txout | .trd _ | .bclr
  | .bbit _ | .brgb .. | .brd | .fenc | .fdec | .dec | .enc .. | .hdr | .eclr | .srst => none

/-- Every operand is in the range of R93. -/
def Instr.wellFormed (i : Instr) : Bool := i.violation.isNone

end Sys2Proof
end

