-- ==== Sys2Proof/Decode.lean ====
section
/-! DEFINITION. The command encoding of spec/30_encoding.md: the fields of a word (R90, R99), the decoder, total on 32-bit words
and rejecting by name (R94, R96, R98), and the encoder, written from the same table. -/

namespace Sys2Proof

/-- `op = W[31:24]` (R90). -/
def opField (w : Command) : Byte := w.extractLsb' 24 8
/-- `a = W[23:16]` (R90). -/
def aField (w : Command) : Byte := w.extractLsb' 16 8
/-- `b = W[15:8]` (R90). -/
def bField (w : Command) : Byte := w.extractLsb' 8 8
/-- `c = W[7:0]` (R90). -/
def cField (w : Command) : Byte := w.extractLsb' 0 8
/-- `imm16 = W[23:8]`, which is `a ## b` (R90). -/
def immField (w : Command) : BitVec 16 := w.extractLsb' 8 16

/-- `W = op*2^24 + a*2^16 + b*2^8 + c` (R90). -/
def packWord (op a b c : Byte) : Command := op ++ a ++ b ++ c

/-- The same with `imm16` in place of a and b (R90). -/
def packImm (op : Byte) (imm : BitVec 16) (c : Byte) : Command := op ++ imm ++ c

/-- A command whose must-be-zero bits are tested: the command if they are all zero, else the rejection (R92). -/
def whenZero (zero : Bool) (i : Instr) : Except Illegal Instr := if zero then .ok i else .error .mustBeZero

/-- Row matching (R94): the opcode selects the format, the format's must-be-zero fields are tested (R91, R92), the other fields
are the operands. -/
def decodeRow (w : Command) : Except Illegal Instr :=
  let a := aField w
  let b := bField w
  let c := cField w
  let imm := immField w
  let zAll := a = 0#8 ∧ b = 0#8 ∧ c = 0#8
  let zAB := a = 0#8 ∧ b = 0#8
  let zC := c = 0#8
  match opField w with
  | 0x00#8 => whenZero zAll .nop
  | 0x01#8 => whenZero zAll .vclr
  | 0x02#8 => .ok (.vmad imm c)
  | 0x03#8 => whenZero zC (.vdiv imm)
  | 0x04#8 => whenZero zC (.vrd imm)
  | 0x10#8 => whenZero (b = 0#8 ∧ c = 0#8) (.pop a)
  | 0x11#8 => whenZero zC (.push a b)
  | 0x20#8 => whenZero zAll .txbeg
  | 0x21#8 => whenZero zAB (.txin c)
  | 0x22#8 => whenZero zAll .txdig
  | 0x23#8 => whenZero zAll .txrev
  | 0x24#8 => whenZero zAll .txout
  | 0x25#8 => whenZero zC (.trd imm)
  | 0x30#8 => whenZero zAll .bclr
  | 0x31#8 => whenZero zC (.bptr a b)
  | 0x32#8 => whenZero (zAB ∧ c.extractLsb' 1 7 = 0#7) (.bbit (c.extractLsb' 0 1))
  | 0x33#8 => .ok (.brgb a b c)
  | 0x34#8 => whenZero zAll .brd
  | 0x35#8 => whenZero (c.extractLsb' 1 7 = 0#7) (.bset a b (c.extractLsb' 0 1))
  | 0x36#8 => whenZero zC (.bget a b)
  | 0x40#8 => whenZero (c.extractLsb' 2 6 = 0#6) (.dleaf a b (c.extractLsb' 0 2))
  | 0x41#8 => whenZero (c.extractLsb' 2 6 = 0#6) (.drg a b (c.extractLsb' 0 2))
  | 0x42#8 => whenZero (c.extractLsb' 2 6 = 0#6) (.eleaf a b (c.extractLsb' 0 2))
  | 0x43#8 => whenZero (c.extractLsb' 2 6 = 0#6) (.erg a b (c.extractLsb' 0 2))
  | 0x50#8 => whenZero zAll .fenc
  | 0x51#8 => whenZero zAll .fdec
  | 0x60#8 => whenZero zAll .dec
  | 0x61#8 => whenZero zC (.enc a b)
  | 0x62#8 => whenZero zAll .hdr
  | 0x70#8 => whenZero zAll .eclr
  | 0x71#8 => whenZero zAll .srst
  | _ => .error .unknownOpcode

/-- The decoder (R98): a word selects exactly one command with operands in range, or is illegal. The ranges are tested after the
row has matched (R93). -/
def decode (w : Command) : Except Illegal Instr :=
  match decodeRow w with
  | .error e => .error e
  | .ok i =>
    match i.violation with
    | none => .ok i
    | some e => .error e

/-- The encoder: the word of a command, its must-be-zero fields zero (R91, R94). -/
def encode : Instr → Command
  | .nop => packWord 0x00#8 0#8 0#8 0#8
  | .vclr => packWord 0x01#8 0#8 0#8 0#8
  | .vmad m add => packImm 0x02#8 m add
  | .vdiv d => packImm 0x03#8 d 0#8
  | .vrd i => packImm 0x04#8 i 0#8
  | .pop t => packWord 0x10#8 t 0#8 0#8
  | .push t r => packWord 0x11#8 t r 0#8
  | .txbeg => packWord 0x20#8 0#8 0#8 0#8
  | .txin ch => packWord 0x21#8 0#8 0#8 ch
  | .txdig => packWord 0x22#8 0#8 0#8 0#8
  | .txrev => packWord 0x23#8 0#8 0#8 0#8
  | .txout => packWord 0x24#8 0#8 0#8 0#8
  | .trd i => packImm 0x25#8 i 0#8
  | .bclr => packWord 0x30#8 0#8 0#8 0#8
  | .bptr x y => packWord 0x31#8 x y 0#8
  | .bbit v => packWord 0x32#8 0#8 0#8 (v.setWidth 8)
  | .brgb red green blue => packWord 0x33#8 red green blue
  | .brd => packWord 0x34#8 0#8 0#8 0#8
  | .bset x y v => packWord 0x35#8 x y (v.setWidth 8)
  | .bget x y => packWord 0x36#8 x y 0#8
  | .dleaf x y l => packWord 0x40#8 x y (l.setWidth 8)
  | .drg x y l => packWord 0x41#8 x y (l.setWidth 8)
  | .eleaf x y l => packWord 0x42#8 x y (l.setWidth 8)
  | .erg x y l => packWord 0x43#8 x y (l.setWidth 8)
  | .fenc => packWord 0x50#8 0#8 0#8 0#8
  | .fdec => packWord 0x51#8 0#8 0#8 0#8
  | .dec => packWord 0x60#8 0#8 0#8 0#8
  | .enc w h => packWord 0x61#8 w h 0#8
  | .hdr => packWord 0x62#8 0#8 0#8 0#8
  | .eclr => packWord 0x70#8 0#8 0#8 0#8
  | .srst => packWord 0x71#8 0#8 0#8 0#8

/-- The match and the mask of the row of R94 a command belongs to. -/
def Instr.tableRow : Instr → Command × Command
  | .nop => (0x00000000#32, 0xFFFFFFFF#32)
  | .vclr => (0x01000000#32, 0xFFFFFFFF#32)
  | .vmad .. => (0x02000000#32, 0xFF000000#32)
  | .vdiv _ => (0x03000000#32, 0xFF0000FF#32)
  | .vrd _ => (0x04000000#32, 0xFF0000FF#32)
  | .pop _ => (0x10000000#32, 0xFF00FFFF#32)
  | .push .. => (0x11000000#32, 0xFF0000FF#32)
  | .txbeg => (0x20000000#32, 0xFFFFFFFF#32)
  | .txin _ => (0x21000000#32, 0xFFFFFF00#32)
  | .txdig => (0x22000000#32, 0xFFFFFFFF#32)
  | .txrev => (0x23000000#32, 0xFFFFFFFF#32)
  | .txout => (0x24000000#32, 0xFFFFFFFF#32)
  | .trd _ => (0x25000000#32, 0xFF0000FF#32)
  | .bclr => (0x30000000#32, 0xFFFFFFFF#32)
  | .bptr .. => (0x31000000#32, 0xFF0000FF#32)
  | .bbit _ => (0x32000000#32, 0xFFFFFFFE#32)
  | .brgb .. => (0x33000000#32, 0xFF000000#32)
  | .brd => (0x34000000#32, 0xFFFFFFFF#32)
  | .bset .. => (0x35000000#32, 0xFF0000FE#32)
  | .bget .. => (0x36000000#32, 0xFF0000FF#32)
  | .dleaf .. => (0x40000000#32, 0xFF0000FC#32)
  | .drg .. => (0x41000000#32, 0xFF0000FC#32)
  | .eleaf .. => (0x42000000#32, 0xFF0000FC#32)
  | .erg .. => (0x43000000#32, 0xFF0000FC#32)
  | .fenc => (0x50000000#32, 0xFFFFFFFF#32)
  | .fdec => (0x51000000#32, 0xFFFFFFFF#32)
  | .dec => (0x60000000#32, 0xFFFFFFFF#32)
  | .enc .. => (0x61000000#32, 0xFF0000FF#32)
  | .hdr => (0x62000000#32, 0xFFFFFFFF#32)
  | .eclr => (0x70000000#32, 0xFFFFFFFF#32)
  | .srst => (0x71000000#32, 0xFFFFFFFF#32)

/-- A word selects the row of a command when `(W and mask) = match` (R94). -/
def Instr.selectedBy (i : Instr) (w : Command) : Bool := w &&& i.tableRow.2 = i.tableRow.1

/-- One command of each of the 31 rows, with every operand 0: its `tableRow` is that row of R94. -/
def tableCommands : List Instr :=
  [.nop, .vclr, .vmad 0 0, .vdiv 0, .vrd 0, .pop 0, .push 0 0, .txbeg, .txin 0, .txdig, .txrev, .txout, .trd 0,
   .bclr, .bptr 0 0, .bbit 0, .brgb 0 0 0, .brd, .bset 0 0 0, .bget 0 0, .dleaf 0 0 0, .drg 0 0 0, .eleaf 0 0 0,
   .erg 0 0 0, .fenc, .fdec, .dec, .enc 0 0, .hdr, .eclr, .srst]

/-- The command the decoder reads from a word given as a number, bit 0 its least significant bit; a command word is presented
whole and has no byte order (R90). Bits from `nbits` up are 0. -/
def decodeTableWord (nbits w : Nat) : Option Instr :=
  (decode (BitVec.ofNat 32 (w % 2 ^ nbits))).toOption

end Sys2Proof
end

