-- ==== Sys2Proof/Config.lean ====
section
/-! DEFINITION. The parameters XFC-1 is built with (spec/00_scope.md R8, all OPEN in spec/92_eei_decisions.md D34 to D40) and
the free values: what the spec leaves unspecified and the machine goes on from (R44, R272). None of the opaque constants has a
body, so nothing can be proved of its value. -/

namespace Sys2Proof

/-- One entry of a level table or of the leaf table: `(count, base)`, count in 0..256, base in 0..255 (R53). -/
structure RomRow where
  count : Fin 257
  base : Fin 256
deriving DecidableEq, Repr, Inhabited

/-- The configuration record `CFG` (R8): the model ROM, the size of the filter table, the two capacities. -/
structure Config where
  /-- `LVL[l][r]`: row r is the outcome r of R19 (0 empty, 1 fill, 2 split). -/
  lvl : Vector (Vector RomRow 3) 4
  /-- `LEAF[p]`: row p is the 2×2 pattern p. -/
  leaf : Vector RomRow 16
  /-- `FT_BITS`, the number of entries of the filter table. -/
  ftBits : Nat
  /-- `FTAB[i]` is bit i (R55). -/
  ftab : BitVec ftBits
  /-- `FOFF[c]`, one offset for each position class (R56). -/
  foff : Vector Nat 12
  /-- `VCAP`: V holds values below `2^k`; `none` is `unbounded` (R22). -/
  vcap : Option Nat
  /-- `TCAP`: the text buffer holds at most k bytes; `none` is `unbounded` (R51). -/
  tcap : Option Nat
deriving DecidableEq, Repr, Inhabited

/-- A row of a table from its two numbers. -/
def romRow (count : Fin 257) (base : Fin 256) : RomRow := { count := count, base := base }

/-- The reference level and leaf tables (spec/93_implementation_defined.md G1, G2: general knowledge, in no source) with the
all-zero filter table ROM-Z and no capacity limit: CFG-A of spec/95_test_vectors.md. A named instance only: the machine's own
configuration is `Config.built`, and no statement about the machine rests on this one. -/
def Config.reference : Config where
  lvl := #v[#v[romRow 4 251, romRow 1 255, romRow 251 0],
    #v[romRow 55 200, romRow 1 255, romRow 200 0],
    #v[romRow 64 159, romRow 33 223, romRow 159 0],
    #v[romRow 125 131, romRow 131 0, romRow 0 0]]
  leaf := #v[romRow 0 0, romRow 38 0, romRow 38 38, romRow 13 152, romRow 38 76, romRow 13 165, romRow 13 178, romRow 6 230,
    romRow 38 114, romRow 13 191, romRow 13 204, romRow 6 236, romRow 13 217, romRow 6 242, romRow 5 248, romRow 3 253]
  ftBits := 4096
  ftab := 0
  foff := Vector.replicate 12 0
  vcap := none
  tcap := none

/-- The configuration the instance was built with, open in every field (D34 to D40). DESIGN CHOICE, safe: log 1. -/
opaque Config.built : Config

/-- Draw n of an unspecified value of V (R272). DESIGN CHOICE, safe: log 7. -/
opaque Config.freeV : Nat → Nat

/-- Draw n of an unspecified value of R (R272). DESIGN CHOICE, safe: log 7. -/
opaque Config.freeR : Nat → BitVec 16

/-- Draw n of an unspecified bitmap (R44, R272). DESIGN CHOICE, safe: logs 5 and 7. -/
opaque Config.freeBitmap : Nat → Bitmap

/-- Draw n of an unspecified text buffer (R272). DESIGN CHOICE, safe: log 7. -/
opaque Config.freeText : Nat → List Byte

end Sys2Proof
end

