-- ==== Sys2Proof/Machine/State.lean ====
section
/-! DEFINITION. The architectural state of XFC-1 (spec/10_state.md R21), the host's side of its interface (R20), the reasons a
step can stop, and the state after a hardware reset (R44). -/

namespace Sys2Proof.Machine

/-- The six fault causes (spec/60_exceptions.md R261). Codes 7 to 15 are never written and have no constructor (U11). -/
inductive FaultCause where
  /-- 1: a word that matches no row, or an operand out of range (R262). -/
  | illegalCommand
  /-- 2: ENC declared with a size other than 48 by 48 (R263). -/
  | dimensionError
  /-- 3: HDR on an empty text (R264). -/
  | formatError
  /-- 4: a condition of the ROM: no row found, a split at level 3, a filter index out of range (R265). -/
  | modelFault
  /-- 5: `VDIV 0`, or a push on a row whose count is 0 (R266). -/
  | divideByZero
  /-- 6: a value of V or a byte of T that does not fit (R267). -/
  | capacityFault
deriving DecidableEq, Repr

/-- A move of the host (R20): the only things that happen to XFC-1 from outside. -/
inductive HostMove where
  /-- Present a command word (R90). -/
  | command (w : Command)
  /-- Read a register by number (R34). -/
  | readRegister (n : Nat)
  /-- Assert the hardware reset (R300). -/
  | reset
deriving DecidableEq, Repr

/-- The state of one XFC-1 instance. -/
structure State where
  /-- V, the coder state: a natural number (R22). -/
  v : Nat
  /-- R, the result register (R26). -/
  r : BitVec 16
  /-- PTR, the raster pointer (R27). -/
  ptr : BitVec 12
  /-- B, the bitmap (R50). -/
  bitmap : Bitmap
  /-- T, the text buffer, `T[0]` first; TLEN is its length (R51, R40, U13). -/
  text : List Byte
  /-- STATUS.ERR (R30). -/
  err : Bool
  /-- STATUS.NE (R33). -/
  ne : Bool
  /-- CAUSE; `none` is code 0 (R37, R261). -/
  cause : Option FaultCause
  /-- INFO, the command word that faulted (R38). -/
  info : Command
  /-- The configuration, which no step changes (R8, R21, R67). Carried here as plain data: log 1. -/
  cfg : Config
  /-- The model's own: the moves the host has yet to make, next first (R20). Log 2. -/
  moves : List HostMove
  /-- The model's own: what the read port delivered last (R34). Log 4. -/
  readData : BitVec 32
  /-- The model's own: how many free values have been drawn (R44, R272). Log 6. -/
  draws : Nat
deriving DecidableEq, Repr

/-- Why the Lean machine stops with a fault: never. Every fault of XFC-1 is a next state, ERR set (R270), so this type has no
constructor; a claim that no step ends in `Outcome.fault` holds of every state. Safe. -/
inductive Fault
deriving DecidableEq, Repr

/-- Why the Lean machine refuses a command. -/
inductive Refusal where
  /-- Raised by an arm of `exec` for an instruction without a meaning yet. Safe: the machine stops. No arm raises it. -/
  | notModelled (mnemonic : String)
deriving DecidableEq, Repr

/-- The state right after a hardware reset (R44, R300): every register 0, T empty, B unspecified (draw 0), the configuration
open. The model's own fields as logs 2, 4 and 6 say. -/
def State.reset : State where
  v := 0
  r := 0
  ptr := 0
  bitmap := Config.freeBitmap 0
  text := []
  err := false
  ne := false
  cause := none
  info := 0
  cfg := Config.built
  moves := []
  readData := 0
  draws := 1

/-- TLEN, the number of bytes held in T (R40). -/
def State.tlen (s : State) : Nat := s.text.length

end Sys2Proof.Machine
end

