-- ==== Sys2Proof/Machine/Flags.lean ====
section
/-! DEFINITION. The status bits (spec/10_state.md R29 to R35), the cause codes (spec/60_exceptions.md R261) and the register read
port (R34 to R41). XFC-1 has no arithmetic condition codes. -/

namespace Sys2Proof.Machine

/-- STATUS.Z reads 1 exactly when V = 0; it is not stored (R31). -/
def zeroFlag (s : State) : Bool := s.v == 0

/-- STATUS.BUSY: a read is made between commands only, so it reads 0 (R32). -/
def busyFlag (_ : State) : Bool := false

/-- The STATUS register: BUSY, ERR, Z, NE in bits 0 to 3, the rest 0 (R35). -/
def statusWord (s : State) : BitVec 32 :=
  (0#28 ++ BitVec.ofBool s.ne) ++ BitVec.ofBool (zeroFlag s) ++ BitVec.ofBool s.err ++ BitVec.ofBool (busyFlag s)

/-- The code of a cause, `CAUSE[3:0]` (R261). -/
def causeCode : Option FaultCause → BitVec 4
  | none => 0
  | some .illegalCommand => 1
  | some .dimensionError => 2
  | some .formatError => 3
  | some .modelFault => 4
  | some .divideByZero => 5
  | some .capacityFault => 6

/-- The size word of ID and of HDR: XSIZE 48 in bits 7:0, YSIZE 48 in bits 15:8 (R36, R243). -/
def sizeWord : BitVec 16 := 0x3030#16

/-- The register read port (R34): the data of register n. An unknown number reads 0. -/
def readRegister (s : State) : Nat → BitVec 32
  | 0x0 => sizeWord.setWidth 32
  | 0x1 => statusWord s
  | 0x2 => (causeCode s.cause).setWidth 32
  | 0x3 => s.info
  | 0x4 => s.r.setWidth 32
  | 0x5 => s.ptr.setWidth 32
  | 0x6 => BitVec.ofNat 32 s.tlen
  | 0x8 => 0x67616D69#32
  | 0x9 => 0x2D782F65#32
  | 0xA => 0x63616678#32
  | 0xB => 0x00000065#32
  | _ => 0

end Sys2Proof.Machine
end

