-- ==== Sys2Proof/Machine/Ops.lean ====
section
/-! DEFINITION. The named operations every command is written with: raising a fault and leaving it (spec/60_exceptions.md
section 2), the two resets (spec/70_reset_and_hazards.md R300, R303), arithmetic on V (spec/40_apu.md R121), access to the
bitmap (spec/43_bitmap.md) and to the text buffer (spec/42_text_codec.md). -/

namespace Sys2Proof.Machine

/-- A procedure of the spec (R14): it writes the state, or raises a fault, which abandons the command that called it. -/
abbrev Proc := State → Except FaultCause State

/-! ### Faults -/

/-- The effect of `raise X` (R270): ERR, CAUSE and INFO, nothing else; control goes nowhere. -/
def raise (c : FaultCause) (w : Command) (s : State) : State :=
  { s with err := true, cause := some c, info := w }

/-- Leaving the faulted state, the machine's only return from a trap (R251, R276): it restores nothing and resumes nothing. -/
def clearFault (s : State) : State :=
  { s with err := false, cause := none, info := 0 }

/-- The pieces of state a macro command may write (R272): after a fault inside it they are unspecified. -/
structure Footprint where
  v : Bool := false
  r : Bool := false
  bitmap : Bool := false
  text : Bool := false
deriving DecidableEq, Repr

/-- An unspecified value of V that the capacity allows: any such value is possible (R272). -/
def drawV (cfg : Config) (n : Nat) : Nat :=
  match cfg.vcap with
  | none => Config.freeV n
  | some k => Config.freeV n % 2 ^ k

/-- An unspecified text of a length up to TCAP: any such text is possible (R272). -/
def drawText (cfg : Config) (n : Nat) : List Byte :=
  match cfg.tcap with
  | none => Config.freeText n
  | some k => (Config.freeText n).take k

/-- The state after a fault part-way through a macro command, before the fault is recorded (R45, R272): the pieces of the
footprint are free values, everything else is as before the command. -/
def scramble (f : Footprint) (s : State) : State :=
  { s with
    v := if f.v then drawV s.cfg s.draws else s.v
    r := if f.r then Config.freeR s.draws else s.r
    bitmap := if f.bitmap then Config.freeBitmap s.draws else s.bitmap
    text := if f.text then drawText s.cfg s.draws else s.text
    draws := s.draws + 1 }

/-- The end of a primitive command: its faults are precise (R271). `w` is the word presented, kept in INFO. -/
def settle (w : Command) (p : Proc) (s : State) : State :=
  match p s with
  | .ok t => t
  | .error c => raise c w s

/-- The end of a macro command: a fault inside it leaves its footprint unspecified (R272). -/
def settleMacro (w : Command) (f : Footprint) (p : Proc) (s : State) : State :=
  match p s with
  | .ok t => t
  | .error c => raise c w (scramble f s)

/-- The range checks of a command, before any state is touched (R93, R262): ILLEGAL_COMMAND, precise, if one fails. -/
def checked (i : Instr) (body : State → State) (s : State) : State :=
  if i.wellFormed then body s else raise .illegalCommand (encode i) s

/-! ### Reset -/

/-- The soft reset: every register 0, T empty, B left as it is (R252, R303). -/
def softReset (s : State) : State :=
  { s with
    v := 0, r := 0, ptr := 0, text := [], err := false, ne := false, cause := none, info := 0 }

/-- The hardware reset: the registers as the soft reset leaves them, B unspecified, the configuration untouched
(R44, R300, R301, R303). -/
def hardReset (s : State) : State :=
  { softReset s with bitmap := Config.freeBitmap s.draws, draws := s.draws + 1 }

/-! ### V -/

/-- The value fits the capacity of V (R22). -/
def fitsV (cfg : Config) (v : Nat) : Bool :=
  match cfg.vcap with
  | none => true
  | some k => v < 2 ^ k

/-- Write a value that may be too large for V: CAPACITY_FAULT, never truncation (R120, R123). -/
def writeV (v : Nat) : Proc := fun s =>
  if fitsV s.cfg v then .ok { s with v := v } else .error .capacityFault

/-- `muladd(V, m, k) = V*m + k` (R121). -/
def mulAdd (v m k : Nat) : Nat := v * m + k

/-- Byte i of V from the least significant end (R57). -/
def byteOfV (v i : Nat) : Nat := v / 256 ^ i % 256

/-! ### The bitmap -/

/-- The pixel (x, y); a place outside the grid reads white (log 13). -/
def pixelAt (b : Bitmap) (x y : Nat) : Bool := (b[y]?.getD 0#48).getLsbD x

/-- Row `r` with its pixel x written. -/
def writeCell (r : BitVec 48) (x : Nat) (v : Bool) : BitVec 48 :=
  if v then r ||| BitVec.twoPow 48 x else r &&& ~~~(BitVec.twoPow 48 x)

/-- Write the pixel (x, y); nothing is written outside the grid (log 13). -/
def setPixelAt (b : Bitmap) (x y : Nat) (v : Bool) : Bitmap :=
  b.setIfInBounds y (writeCell (b[y]?.getD 0#48) x v)

/-- `B[i]` with one index: the pixel `(i mod 48, i div 48)` (R12, R50). -/
def pixel (b : Bitmap) (i : Nat) : Bool := pixelAt b (i % 48) (i / 48)

/-- `B[i] <- v` with one index (R12). -/
def setPixel (b : Bitmap) (i : Nat) (v : Bool) : Bitmap := setPixelAt b (i % 48) (i / 48) v

/-- The all-white bitmap (R173). -/
def whiteBitmap : Bitmap := Vector.replicate 48 0#48

/-- The raster index of a pixel (R50). -/
def rasterIndex (x y : Nat) : Nat := y * 48 + x

/-- The pointer after one advance: it wraps from 2303 to 0 (R171). -/
def advancePtr (p : BitVec 12) : BitVec 12 := BitVec.ofNat 12 ((p.toNat + 1) % 2304)

/-- `B[PTR] <- v; advance()` (R174). -/
def streamPixel (v : Bool) (s : State) : State :=
  { s with bitmap := setPixel s.bitmap s.ptr.toNat v, ptr := advancePtr s.ptr }

/-- A pixel as the 16-bit value R receives (R177, R179). -/
def pixelWord (v : Bool) : BitVec 16 := (BitVec.ofBool v).setWidth 16

/-! ### The text buffer -/

/-- One more byte fits the text buffer (R158). -/
def textHasRoom (s : State) : Bool :=
  match s.cfg.tcap with
  | none => true
  | some k => s.tlen < k

/-- A data character, `!` to `~` (R151). -/
def isDataCharacter (c : Byte) : Bool := 33 ≤ c.toNat && c.toNat ≤ 126

/-- The character of a base-94 digit (R150). -/
def digitCharacter (d : Nat) : Byte := BitVec.ofNat 8 (33 + d)

end Sys2Proof.Machine
end

