-- ==== Sys2Proof/Machine/Apu.lean ====
section
/-! DEFINITION. The arbitrary-precision unit (spec/40_apu.md): VCLR, VMAD, VDIV, VRD. -/

namespace Sys2Proof.Machine

/-- VCLR: `V <- 0`, nothing else (R126). -/
def execVclr (s : State) : Host.Outcome State Fault Refusal := .next { s with v := 0 }

/-- VMAD m, add: `V <- V*m + add`, or CAPACITY_FAULT, precise (R127). -/
def execVmad (m : BitVec 16) (add : Byte) (s : State) : Host.Outcome State Fault Refusal :=
  .next (settle (encode (.vmad m add)) (writeV (mulAdd s.v m.toNat add.toNat)) s)

/-- `V <- V div d; R <- V mod d`, or DIVIDE_BY_ZERO (R128, R129). -/
def divideV (d : Nat) : Proc := fun s =>
  if d = 0 then .error .divideByZero
  else .ok { s with v := s.v / d, r := BitVec.ofNat 16 (s.v % d) }

/-- VDIV d (R128): DIVIDE_BY_ZERO is precise. -/
def execVdiv (d : BitVec 16) (s : State) : Host.Outcome State Fault Refusal :=
  .next (settle (encode (.vdiv d)) (divideV d.toNat) s)

/-- VRD i: `R <- (V div 256^i) mod 256` (R130). -/
def execVrd (i : BitVec 16) (s : State) : Host.Outcome State Fault Refusal :=
  .next { s with r := BitVec.ofNat 16 (byteOfV s.v i.toNat) }

end Sys2Proof.Machine
end

