-- ==== Sys2Proof/Machine/BitmapAccess.lean ====
section
/-! DEFINITION. Bitmap access (spec/43_bitmap.md): BCLR, BPTR, BBIT, BRGB, BRD, BSET, BGET. -/

namespace Sys2Proof.Machine

/-- `bclr()`: every pixel white (R173). -/
def clearBitmap (s : State) : State := { s with bitmap := whiteBitmap }

/-- BCLR (R173). -/
def execBclr (s : State) : Host.Outcome State Fault Refusal := .next (clearBitmap s)

/-- BPTR x, y: `PTR <- y*48 + x` (R172). -/
def execBptr (x y : Byte) (s : State) : Host.Outcome State Fault Refusal :=
  .next (checked (.bptr x y) (fun s => { s with ptr := BitVec.ofNat 12 (rasterIndex x.toNat y.toNat) }) s)

/-- BBIT v: the pixel at PTR as given, then advance (R174). -/
def execBbit (v : BitVec 1) (s : State) : Host.Outcome State Fault Refusal := .next (streamPixel (v == 1#1) s)

/-- The normalisation rule: black exactly when every channel is 0 (R175). -/
def isBlack (red green blue : Byte) : Bool := red == 0#8 && green == 0#8 && blue == 0#8

/-- BRGB red, green, blue: the normalised pixel at PTR, then advance (R176). -/
def execBrgb (red green blue : Byte) (s : State) : Host.Outcome State Fault Refusal :=
  .next (streamPixel (isBlack red green blue) s)

/-- BRD: `R <- B[PTR]`, then advance (R177). -/
def execBrd (s : State) : Host.Outcome State Fault Refusal :=
  .next { s with r := pixelWord (pixel s.bitmap s.ptr.toNat), ptr := advancePtr s.ptr }

/-- BSET x, y, v: `B[x,y] <- v` (R178). -/
def execBset (x y : Byte) (v : BitVec 1) (s : State) : Host.Outcome State Fault Refusal :=
  .next (checked (.bset x y v) (fun s => { s with bitmap := setPixelAt s.bitmap x.toNat y.toNat (v == 1#1) }) s)

/-- BGET x, y: `R <- B[x,y]` (R179). -/
def execBget (x y : Byte) (s : State) : Host.Outcome State Fault Refusal :=
  .next (checked (.bget x y) (fun s => { s with r := pixelWord (pixelAt s.bitmap x.toNat y.toNat) }) s)

end Sys2Proof.Machine
end

