-- ==== Sys2Proof/Machine/Filter.lean ====
section
/-! DEFINITION. The causal predictive filter (spec/45_filter.md): the window, the context, the position class, the predicted bit,
and the commands FENC and FDEC. -/

namespace Sys2Proof.Machine

/-- The offsets (dx + 2, dy + 2) of the window in visiting order: column by column, top to bottom, without the current pixel and
the later ones of its row (R216, R217). -/
def windowOffsets : List (Nat × Nat) :=
  [(0, 0), (0, 1), (0, 2), (1, 0), (1, 1), (1, 2), (2, 0), (2, 1), (3, 0), (3, 1), (4, 0), (4, 1)]

/-- The window of (x, y) in visiting order: pixels outside the grid are omitted (R216, R217). -/
def window (x y : Nat) : List (Nat × Nat) :=
  windowOffsets.filterMap fun d =>
    if 2 ≤ x + d.1 ∧ x + d.1 ≤ 49 ∧ 2 ≤ y + d.2 then some (x + d.1 - 2, y + d.2 - 2) else none

/-- `ctx(S, x, y)`: the window's pixels shifted in at the low end, the first visited most significant (R217). -/
def context (src : Bitmap) (x y : Nat) : Nat :=
  (window x y).foldl (fun k p => 2 * k + (pixelAt src p.1 p.2).toNat) 0

/-- `nbits(x, y)`, the number of context bits (R218). -/
def contextBits (x y : Nat) : Nat := (min x 2 + 1 + min (47 - x) 2) * min y 2 + min x 2

/-- The bucket of x: columns 0 to 2, interior, the last column (R219). -/
def xBucket (x : Nat) : Nat := if x ≤ 2 then 0 else if x ≤ 46 then 1 else 2

/-- The bucket of y: rows 0, 1, 2, else (R219). -/
def yBucket (y : Nat) : Nat := if y ≤ 2 then y else 3

/-- `cls(x, y)`, the position class 0..11 (R219). -/
def positionClass (x y : Nat) : Nat := 3 * yBucket y + xBucket x

/-- `predict(S, x, y)`: the filter table's bit at context plus class offset, MODEL_FAULT past the table's end (R220). -/
def predict (cfg : Config) (src : Bitmap) (x y : Nat) : Except FaultCause Bool :=
  let i := context src x y + (cfg.foff[positionClass x y]?.getD 0)
  if i ≥ cfg.ftBits then .error .modelFault else .ok (cfg.ftab.getLsbD i)

/-- One step of a filter pass at raster index i: `dst` with pixel i of `src` xored with its prediction from `src` (R221, R222). -/
def filterPixel (cfg : Config) (src dst : Bitmap) (i : Nat) : Except FaultCause Bitmap := do
  let p ← predict cfg src (i % 48) (i / 48)
  return setPixel dst i (pixel src i ^^ p)

/-- `filter_enc()`: raster order, every prediction from the bitmap as it was (R215, R221). -/
def filterEnc : Proc := fun s => do
  let b ← (List.range 2304).foldlM (fun dst i => filterPixel s.cfg s.bitmap dst i) s.bitmap
  return { s with bitmap := b }

/-- `filter_dec()`: raster order, in place, every prediction from the bitmap as it stands (R215, R222). -/
def filterDec : Proc := fun s => do
  let b ← (List.range 2304).foldlM (fun dst i => filterPixel s.cfg dst dst i) s.bitmap
  return { s with bitmap := b }

/-- What FENC and FDEC may write (R225, R272). -/
def filterFootprint : Footprint := { bitmap := true }

/-- FENC (R221). -/
def execFenc (s : State) : Host.Outcome State Fault Refusal :=
  .next (settleMacro (encode .fenc) filterFootprint filterEnc s)

/-- FDEC (R222). -/
def execFdec (s : State) : Host.Outcome State Fault Refusal :=
  .next (settleMacro (encode .fdec) filterFootprint filterDec s)

end Sys2Proof.Machine
end

