-- ==== Sys2Proof/Machine/Coder.lean ====
section
/-! DEFINITION. The symbol coder (spec/41_symbol_coder.md): the procedures `pop(t)` and `push(t, r)`, which the quad-tree engine
also calls, and the commands POP and PUSH. -/

namespace Sys2Proof.Machine

/-- `TAB(t)`: the level table t for t in 0..3, the leaf table for t = 4 (R12, R140). No command reaches another t. -/
def tableRows (cfg : Config) (t : Nat) : List RomRow :=
  match cfg.lvl[t]? with
  | some rows => rows.toList
  | none => if t = 4 then cfg.leaf.toList else []

/-- `base <= n and n < base + count` (R141). A row with count 0 contains nothing. -/
def rowContains (row : RomRow) (n : Nat) : Bool := row.base.val ≤ n && n < row.base.val + row.count.val

/-- The scan of a table in order, from row number `r`: the first row that contains n, with its number (R141, U6). -/
def scanRows (n : Nat) : Nat → List RomRow → Option (Nat × RomRow)
  | _, [] => none
  | r, row :: rows => if rowContains row n then some (r, row) else scanRows n (r + 1) rows

/-- `pop(t)` (R141). Its result, the row number, is what it leaves in R. -/
def pop (t : Nat) : Proc := fun s =>
  let n := s.v % 256
  let q := s.v / 256
  match scanRows n 0 (tableRows s.cfg t) with
  | none => .error .modelFault
  | some (r, row) =>
    .ok { s with v := q * row.count.val + (n - row.base.val), r := BitVec.ofNat 16 r }

/-- `push(t, r)` (R143): DIVIDE_BY_ZERO is tested before the capacity (R274). A row number past the table's end is
ILLEGAL_COMMAND (R140); no caller passes one. -/
def push (t r : Nat) : Proc := fun s =>
  match (tableRows s.cfg t)[r]? with
  | none => .error .illegalCommand
  | some row =>
    if row.count.val = 0 then .error .divideByZero
    else writeV (s.v / row.count.val * 256 + (s.v % row.count.val + row.base.val)) s

/-- POP t (R141): MODEL_FAULT is precise. -/
def execPop (t : Byte) (s : State) : Host.Outcome State Fault Refusal :=
  .next (checked (.pop t) (settle (encode (.pop t)) (pop t.toNat)) s)

/-- PUSH t, r (R143): its faults are precise. -/
def execPush (t r : Byte) (s : State) : Host.Outcome State Fault Refusal :=
  .next (checked (.push t r) (settle (encode (.push t r)) (push t.toNat r.toNat)) s)

end Sys2Proof.Machine
end

