-- ==== Sys2Proof/Machine/QuadTree.lean ====
section
/-! DEFINITION. The quad-tree engine (spec/44_quadtree.md): the procedures `decode_leaf`, `decode_region`, `encode_leaf`,
`encode_region` and the commands DLEAF, DRG, ELEAF, ERG. A region of level l is given by its height `k = 3 - l` above the 2×2
blocks: its size is `2^(k+1)`, its level `3 - k`, its quadrants have height `k - 1` (R190, R191). -/

namespace Sys2Proof.Machine

/-- S_EMPTY, the row of an all-white region (R19). -/
def symEmpty : Nat := 0
/-- S_FILL, the row of a region stored as leaf patterns (R19). -/
def symFill : Nat := 1
/-- S_SPLIT, the row of a region split into quadrants (R19). -/
def symSplit : Nat := 2

/-- The leaf table's selector (R140). -/
def leafTable : Nat := 4

/-- `pat(x, y)`: the pattern of the 2×2 block at (x, y) (R60, R192). -/
def blockPattern (b : Bitmap) (x y : Nat) : Nat :=
  (pixelAt b x y).toNat + 2 * (pixelAt b (x + 1) y).toNat + 4 * (pixelAt b x (y + 1)).toNat +
    8 * (pixelAt b (x + 1) (y + 1)).toNat

/-- Write a pattern into the 2×2 block at (x, y) (R192). -/
def writeBlock (b : Bitmap) (x y p : Nat) : Bitmap :=
  setPixelAt (setPixelAt (setPixelAt (setPixelAt b x y (p.testBit 0)) (x + 1) y (p.testBit 1))
    x (y + 1) (p.testBit 2)) (x + 1) (y + 1) (p.testBit 3)

/-- `decode_leaf(x, y, s)` (R193): quadrants TL, TR, BL, BR down to 2×2 blocks, one pop of the leaf table for each. -/
def decodeLeaf : Nat → Nat → Nat → Proc
  | 0, x, y, s => do
    let s ← pop leafTable s
    return { s with bitmap := writeBlock s.bitmap x y s.r.toNat }
  | k + 1, x, y, s => do
    let h := 2 ^ (k + 1)
    let s ← decodeLeaf k x y s
    let s ← decodeLeaf k (x + h) y s
    let s ← decodeLeaf k x (y + h) s
    decodeLeaf k (x + h) (y + h) s

/-- `decode_region(x, y, l)` (R194): S_EMPTY writes no pixel, S_FILL decodes leaves, S_SPLIT recurses; a split of a 2×2 region
is MODEL_FAULT. -/
def decodeRegion : Nat → Nat → Nat → Proc
  | 0, x, y, s => do
    let s ← pop 3 s
    if s.r.toNat = symEmpty then .ok s
    else if s.r.toNat = symFill then decodeLeaf 0 x y s
    else .error .modelFault
  | k + 1, x, y, s => do
    let h := 2 ^ (k + 1)
    let s ← pop (3 - (k + 1)) s
    if s.r.toNat = symEmpty then .ok s
    else if s.r.toNat = symFill then decodeLeaf (k + 1) x y s
    else do
      let s ← decodeRegion k x y s
      let s ← decodeRegion k (x + h) y s
      let s ← decodeRegion k x (y + h) s
      decodeRegion k (x + h) (y + h) s

/-- `all_white(x, y, s)`: every pixel of the square is 0 (R196). -/
def allWhite (b : Bitmap) (x y size : Nat) : Bool :=
  (List.range size).all fun j => (List.range size).all fun i => !pixelAt b (x + i) (y + j)

/-- `all_black`: every aligned 2×2 block of the region holds a black pixel (R197). -/
def allBlack (b : Bitmap) : Nat → Nat → Nat → Bool
  | 0, x, y => blockPattern b x y != 0
  | k + 1, x, y =>
    allBlack b k x y && allBlack b k (x + 2 ^ (k + 1)) y && allBlack b k x (y + 2 ^ (k + 1)) &&
      allBlack b k (x + 2 ^ (k + 1)) (y + 2 ^ (k + 1))

/-- `encode_leaf(x, y, s)` (R201): quadrants BR, BL, TR, TL, one push of the leaf table for each 2×2 block. -/
def encodeLeaf : Nat → Nat → Nat → Proc
  | 0, x, y, s => push leafTable (blockPattern s.bitmap x y) s
  | k + 1, x, y, s => do
    let h := 2 ^ (k + 1)
    let s ← encodeLeaf k (x + h) (y + h) s
    let s ← encodeLeaf k x (y + h) s
    let s ← encodeLeaf k (x + h) y s
    encodeLeaf k x y s

/-- `encode_region(x, y, l)` (R202): white before black before split, the region's own symbol pushed last. A 2×2 block that is
not white is black, so a 2×2 region has no third case (R198; log 17). -/
def encodeRegion : Nat → Nat → Nat → Proc
  | 0, x, y, s =>
    if allWhite s.bitmap x y 2 then push 3 symEmpty s
    else do
      let s ← encodeLeaf 0 x y s
      push 3 symFill s
  | k + 1, x, y, s =>
    if allWhite s.bitmap x y (2 ^ (k + 2)) then push (3 - (k + 1)) symEmpty s
    else if allBlack s.bitmap (k + 1) x y then do
      let s ← encodeLeaf (k + 1) x y s
      push (3 - (k + 1)) symFill s
    else do
      let h := 2 ^ (k + 1)
      let s ← encodeRegion k (x + h) (y + h) s
      let s ← encodeRegion k x (y + h) s
      let s ← encodeRegion k (x + h) y s
      let s ← encodeRegion k x y s
      push (3 - (k + 1)) symSplit s

/-- What DLEAF and DRG may write (R193, R195, R272). -/
def decodeFootprint : Footprint := { v := true, r := true, bitmap := true }

/-- What ELEAF and ERG may write (R201, R203, R272). -/
def encodeFootprint : Footprint := { v := true }

/-- DLEAF x, y, l (R193). -/
def execDleaf (x y : Byte) (l : BitVec 2) (s : State) : Host.Outcome State Fault Refusal :=
  .next (checked (.dleaf x y l)
    (settleMacro (encode (.dleaf x y l)) decodeFootprint (decodeLeaf (regionHeight l) x.toNat y.toNat)) s)

/-- DRG x, y, l (R195). -/
def execDrg (x y : Byte) (l : BitVec 2) (s : State) : Host.Outcome State Fault Refusal :=
  .next (checked (.drg x y l)
    (settleMacro (encode (.drg x y l)) decodeFootprint (decodeRegion (regionHeight l) x.toNat y.toNat)) s)

/-- ELEAF x, y, l (R201). -/
def execEleaf (x y : Byte) (l : BitVec 2) (s : State) : Host.Outcome State Fault Refusal :=
  .next (checked (.eleaf x y l)
    (settleMacro (encode (.eleaf x y l)) encodeFootprint (encodeLeaf (regionHeight l) x.toNat y.toNat)) s)

/-- ERG x, y, l (R203). -/
def execErg (x y : Byte) (l : BitVec 2) (s : State) : Host.Outcome State Fault Refusal :=
  .next (checked (.erg x y l)
    (settleMacro (encode (.erg x y l)) encodeFootprint (encodeRegion (regionHeight l) x.toNat y.toNat)) s)

end Sys2Proof.Machine
end

