-- ==== Sys2Proof/Machine/TextCodec.lean ====
section
/-! DEFINITION. The base-94 text codec (spec/42_text_codec.md): TXBEG, TXIN, TXDIG, TXREV, TXOUT, TRD. -/

namespace Sys2Proof.Machine

/-- TXBEG: `V <- 0; STATUS.NE <- 0; TLEN <- 0` (R152). -/
def execTxbeg (s : State) : Host.Outcome State Fault Refusal := .next { s with v := 0, ne := false, text := [] }

/-- Fold one character into V; a non-data character is skipped; NE is set by either (R153). -/
def foldCharacter (ch : Byte) : Proc := fun s =>
  if isDataCharacter ch then do
    let s ← writeV (mulAdd s.v 94 (ch.toNat - 33)) s
    return { s with ne := true }
  else .ok { s with ne := true }

/-- TXIN ch (R153): CAPACITY_FAULT is precise, NE included. -/
def execTxin (ch : Byte) (s : State) : Host.Outcome State Fault Refusal :=
  .next (settle (encode (.txin ch)) (foldCharacter ch) s)

/-- `txdig()`: extract one base-94 digit and append its character (R158). -/
def txdig : Proc := fun s =>
  if textHasRoom s then
    .ok { s with
      v := s.v / 94
      text := s.text ++ [digitCharacter (s.v % 94)]
      r := BitVec.ofNat 16 (s.v % 94) }
  else .error .capacityFault

/-- TXDIG (R158): CAPACITY_FAULT is precise. -/
def execTxdig (s : State) : Host.Outcome State Fault Refusal := .next (settle (encode .txdig) txdig s)

/-- `txrev()`: the text buffer reversed (R159). -/
def txrev (s : State) : State := { s with text := s.text.reverse }

/-- TXREV (R159). -/
def execTxrev (s : State) : Host.Outcome State Fault Refusal := .next (txrev s)

/-- `while V != 0: txdig()` (R160), at most `fuel` times. A digit more than halves V, so `log2 V + 1` rounds end it (log 16). -/
def digitLoop : Nat → Proc
  | 0, s => .ok s
  | fuel + 1, s => if s.v = 0 then .ok s else txdig s >>= digitLoop fuel

/-- `txout()`: V as text, most significant digit first; V = 0 gives a single `!` (R160). -/
def txout : Proc := fun s => do
  let s ← digitLoop (s.v.log2 + 1) { s with text := [] }
  let s ← if s.text = [] then txdig s else .ok s
  return txrev s

/-- What TXOUT may write (R160, R272). -/
def txoutFootprint : Footprint := { v := true, r := true, text := true }

/-- TXOUT (R160). -/
def execTxout (s : State) : Host.Outcome State Fault Refusal :=
  .next (settleMacro (encode .txout) txoutFootprint txout s)

/-- `R <- T[i]`, ILLEGAL_COMMAND at or beyond TLEN (R162): the one range check that reads state (R98). -/
def readText (i : Nat) : Proc := fun s =>
  match s.text[i]? with
  | none => .error .illegalCommand
  | some c => .ok { s with r := c.setWidth 16 }

/-- TRD i (R162): precise. -/
def execTrd (i : BitVec 16) (s : State) : Host.Outcome State Fault Refusal :=
  .next (settle (encode (.trd i)) (readText i.toNat) s)

end Sys2Proof.Machine
end

