-- ==== Sys2Proof/Machine/Orchestration.lean ====
section
/-! DEFINITION. The orchestration sequencer (spec/46_orchestration.md): DEC, ENC, HDR. -/

namespace Sys2Proof.Machine

/-- The origin of the top-level region k, row-major (R68). -/
def regionOrigin (k : Nat) : Nat × Nat := (16 * (k % 3), 16 * (k / 3))

/-- `for k in 0..8: decode_region(...)` (R236, R237). -/
def decodeRegions : Proc := fun s =>
  (List.range 9).foldlM (fun s k => decodeRegion 3 (regionOrigin k).1 (regionOrigin k).2 s) s

/-- `for k in 8 downto 0: encode_region(...)` (R236, R239). -/
def encodeRegions : Proc := fun s =>
  (List.range 9).reverse.foldlM (fun s k => encodeRegion 3 (regionOrigin k).1 (regionOrigin k).2 s) s

/-- The body of DEC: clear, nine regions, the filter (R237). -/
def decodeImage : Proc := fun s => do
  let s ← decodeRegions (clearBitmap s)
  filterDec s

/-- The body of ENC on a 48 by 48 image: the filter, V cleared, nine regions, the text (R239). -/
def encodeImage : Proc := fun s => do
  let s ← filterEnc s
  let s ← encodeRegions { s with v := 0 }
  txout s

/-- What DEC may write (R237, R272). -/
def decFootprint : Footprint := { v := true, r := true, bitmap := true }

/-- What ENC may write (R239, R272). -/
def encFootprint : Footprint := { v := true, r := true, bitmap := true, text := true }

/-- DEC (R237). -/
def execDec (s : State) : Host.Outcome State Fault Refusal :=
  .next (settleMacro (encode .dec) decFootprint decodeImage s)

/-- ENC w, h: DIMENSION_ERROR before anything is written, unless both are 48 (R239, R263). -/
def execEnc (w h : Byte) (s : State) : Host.Outcome State Fault Refusal :=
  .next (if w.toNat ≠ 48 ∨ h.toNat ≠ 48 then raise .dimensionError (encode (.enc w h)) s
    else settleMacro (encode (.enc w h)) encFootprint encodeImage s)

/-- HDR: the size word to R, or FORMAT_ERROR on an empty text (R243, R264). -/
def execHdr (s : State) : Host.Outcome State Fault Refusal :=
  .next (if s.ne then { s with r := sizeWord } else raise .formatError (encode .hdr) s)

end Sys2Proof.Machine
end

