-- ==== Sys2Proof/Machine/System.lean ====
section
/-! DEFINITION. The system commands (spec/47_system.md): NOP, ECLR, SRST. -/

namespace Sys2Proof.Machine

/-- NOP: no state is written (R250). -/
def execNop (s : State) : Host.Outcome State Fault Refusal := .next s

/-- ECLR: `STATUS.ERR <- 0; CAUSE <- 0; INFO <- 0` (R251). -/
def execEclr (s : State) : Host.Outcome State Fault Refusal := .next (clearFault s)

/-- SRST: the registers cleared, B left as it is (R252). -/
def execSrst (s : State) : Host.Outcome State Fault Refusal := .next (softReset s)

end Sys2Proof.Machine
end

