-- ==== Sys2Proof/Machine/Dispatch.lean ====
section
/-! DEFINITION. The meaning of each command, one arm for each constructor of Instr, in the order of spec/opcode_table.json. An arm
is the command's own rule; that a faulted machine drops commands is tested before it (spec/60_exceptions.md R273,
Machine/Sequencer.lean). -/

namespace Sys2Proof.Machine

def exec (i : Instr) (s : State) : Host.Outcome State Fault Refusal :=
  match i with
  | .nop => Sys2Proof.Machine.execNop s
  | .vclr => Sys2Proof.Machine.execVclr s
  | .vmad m add => Sys2Proof.Machine.execVmad m add s
  | .vdiv d => Sys2Proof.Machine.execVdiv d s
  | .vrd n => Sys2Proof.Machine.execVrd n s
  | .pop t => Sys2Proof.Machine.execPop t s
  | .push t r => Sys2Proof.Machine.execPush t r s
  | .txbeg => Sys2Proof.Machine.execTxbeg s
  | .txin ch => Sys2Proof.Machine.execTxin ch s
  | .txdig => Sys2Proof.Machine.execTxdig s
  | .txrev => Sys2Proof.Machine.execTxrev s
  | .txout => Sys2Proof.Machine.execTxout s
  | .trd n => Sys2Proof.Machine.execTrd n s
  | .bclr => Sys2Proof.Machine.execBclr s
  | .bptr x y => Sys2Proof.Machine.execBptr x y s
  | .bbit v => Sys2Proof.Machine.execBbit v s
  | .brgb red green blue => Sys2Proof.Machine.execBrgb red green blue s
  | .brd => Sys2Proof.Machine.execBrd s
  | .bset x y v => Sys2Proof.Machine.execBset x y v s
  | .bget x y => Sys2Proof.Machine.execBget x y s
  | .dleaf x y l => Sys2Proof.Machine.execDleaf x y l s
  | .drg x y l => Sys2Proof.Machine.execDrg x y l s
  | .eleaf x y l => Sys2Proof.Machine.execEleaf x y l s
  | .erg x y l => Sys2Proof.Machine.execErg x y l s
  | .fenc => Sys2Proof.Machine.execFenc s
  | .fdec => Sys2Proof.Machine.execFdec s
  | .dec => Sys2Proof.Machine.execDec s
  | .enc w h => Sys2Proof.Machine.execEnc w h s
  | .hdr => Sys2Proof.Machine.execHdr s
  | .eclr => Sys2Proof.Machine.execEclr s
  | .srst => Sys2Proof.Machine.execSrst s

end Sys2Proof.Machine
end

