-- ==== Sys2Proof/Machine/Sequencer.lean ====
section
/-! DEFINITION. How the sequencer takes what the host does (spec/10_state.md R20): the acceptance of a command
(spec/60_exceptions.md R273, spec/30_encoding.md R98), a register read (R34), the hardware reset (R300). -/

namespace Sys2Proof.Machine

/-- While ERR = 1 only the exact words of ECLR and SRST are accepted (R273). -/
def accepts (s : State) (w : Command) : Bool := !s.err || w == 0x70000000#32 || w == 0x71000000#32

/-- A command presented to the idle machine (R98): first the ERR test, then decoding and the range checks, then the command's own
rule. A word that does not decode is ILLEGAL_COMMAND (R262); a dropped word changes nothing. -/
def present (w : Command) (s : State) : Host.Outcome State Fault Refusal :=
  if accepts s w then
    match decode w with
    | .ok i => exec i s
    | .error _ => .next (raise .illegalCommand w s)
  else .next s

/-- One move of the host. -/
def hostMove (m : HostMove) (s : State) : Host.Outcome State Fault Refusal :=
  match m with
  | .command w => present w s
  | .readRegister n => .next { s with readData := readRegister s n }
  | .reset => .next (hardReset s)

end Sys2Proof.Machine
end

