-- ==== Sys2Proof/Machine/Step.lean ====
section
/-! DEFINITION. One step of the machine: the host's next move, whole (spec/00_scope.md R15). XFC-1 fetches nothing
(spec/10_state.md R28); the moves to come are a list in State (log 2). -/

namespace Sys2Proof.Machine

/-- One step: the next move of the host. With no move to come XFC-1 is idle and stays as it is (R290; log 3). -/
def step (s : State) : Host.Outcome State Fault Refusal :=
  match s.moves with
  | [] => .next s
  | m :: rest => hostMove m { s with moves := rest }

/-- `s` with a command the host presents next, ahead of the moves `s` already holds: this is how XFC-1 is given a command (log 2). -/
def State.withFetchWord (s : State) (nbits w : Nat) : State :=
  { s with moves := .command (BitVec.ofNat 32 (w % 2 ^ nbits)) :: s.moves }

end Sys2Proof.Machine
end

