-- ==== Sys2Proof/Machine/Recipes.lean ====
section
/-! DEFINITION. Sequences of commands the spec names: the pseudo-commands of spec/30_encoding.md R101 and the host recipes of
spec/46_orchestration.md R244. -/

namespace Sys2Proof.Machine

/-- The pseudo-commands (R101); none has an encoding of its own. -/
inductive Pseudo where
  /-- `V <- V*m`. -/
  | vmul (m : BitVec 16)
  /-- `V <- V + k`. -/
  | vadd (k : Byte)
  /-- `V <- k`. -/
  | vset (k : Byte)
  /-- Decode top-level region k. -/
  | dtop (k : Fin 9)
  /-- Encode top-level region k. -/
  | etop (k : Fin 9)
  /-- Feed a string. -/
  | txstr (s : List Byte)
  /-- Stream one white pixel. -/
  | bwhite
  /-- Stream one black pixel. -/
  | bblack
deriving DecidableEq, Repr

/-- The x operand of top-level region k: `16*(k mod 3)` (R101). -/
def topX (k : Nat) : Byte := BitVec.ofNat 8 (16 * (k % 3))

/-- The y operand of top-level region k: `16*(k div 3)` (R101). -/
def topY (k : Nat) : Byte := BitVec.ofNat 8 (16 * (k / 3))

/-- The expansion of a pseudo-command (R101). -/
def expandPseudo : Pseudo → List Instr
  | .vmul m => [.vmad m 0]
  | .vadd k => [.vmad 1 k]
  | .vset k => [.vmad 0 k]
  | .dtop k => [.drg (topX k.val) (topY k.val) 0]
  | .etop k => [.erg (topX k.val) (topY k.val) 0]
  | .txstr s => s.map .txin
  | .bwhite => [.bbit 0]
  | .bblack => [.bbit 1]

/-- `TXBEG`, then `TXIN` for every byte of a text (R244). -/
def loadText (text : List Byte) : List Instr := .txbeg :: text.map .txin

/-- `decode(text)` up to the decoded bitmap (R244). -/
def decodeRecipe (text : List Byte) : List Instr := loadText text ++ [.dec]

/-- Reading the bitmap out: `BPTR 0, 0`, then 2304 times `BRD` (R244). -/
def readOutRecipe : List Instr := .bptr 0 0 :: List.replicate 2304 .brd

/-- Loading an image of binary pixels in raster order: `BPTR 0, 0`, then one `BBIT` for each (R244). -/
def loadImage (pixels : List Bool) : List Instr := .bptr 0 0 :: pixels.map fun p => .bbit (BitVec.ofBool p)

/-- Loading an image of colour pixels in raster order (R244). -/
def loadColours (pixels : List (Byte × Byte × Byte)) : List Instr :=
  .bptr 0 0 :: pixels.map fun p => .brgb p.1 p.2.1 p.2.2

/-- Reading a text of n bytes out: `TRD 0` to `TRD n-1` (R244). -/
def readTextRecipe (n : Nat) : List Instr := (List.range n).map fun i => .trd (BitVec.ofNat 16 i)

/-- `decode_header(text)` (R244). -/
def headerRecipe (text : List Byte) : List Instr := loadText text ++ [.hdr]

/-- DEC written with the commands it is made of (R244). -/
def decodeComponents : List Instr :=
  [.bclr] ++ ((List.range 9).map fun k => .drg (topX k) (topY k) 0) ++ [.fdec]

/-- ENC written with the commands it is made of (R244). -/
def encodeComponents : List Instr :=
  [.fenc, .vclr] ++ ((List.range 9).reverse.map fun k => .erg (topX k) (topY k) 0) ++ [.txout]

end Sys2Proof.Machine
end

