-- ==== Sys2Proof/Safety.lean ====
section
/-! DEFINITION. What counts as a sound machine, in the terms the statements use: the named premises on the configuration
(spec/20_memory.md R54, R56; spec/46_orchestration.md R240; spec/70_reset_and_hazards.md R321), the invariant of the state, which
command may raise or write what (spec/60_exceptions.md R268, R272), and the host presenting commands one after another. -/

namespace Sys2Proof.Machine

/-! ### Premises on the configuration -/

/-- A well-formed table (R54): the ranges of its rows with a count are inside 0..255, and every n of 0..255 lies in exactly one
row, that is, they are disjoint and their union is 0..255. -/
abbrev tableWellFormed (rows : List RomRow) : Prop :=
  (∀ row ∈ rows, 1 ≤ row.count.val → row.base.val + row.count.val ≤ 256) ∧
    ∀ n < 256, (rows.filter fun row => rowContains row n).length = 1

/-- A well-formed ROM: the four level tables and the leaf table are (R54). -/
abbrev romWellFormed (cfg : Config) : Prop := ∀ t < 5, tableWellFormed (tableRows cfg t)

/-- The count of row r of table t, 0 where there is no such row. -/
def countOf (cfg : Config) (t r : Nat) : Nat := ((tableRows cfg t)[r]?.map fun row => row.count.val).getD 0

/-- The level-3 table never yields a split (R265, R238). -/
abbrev noDeepSplit (cfg : Config) : Prop := countOf cfg 3 symSplit = 0

/-- A filter-complete ROM: no filter index of any pixel is out of range (R56). -/
abbrev filterComplete (cfg : Config) : Prop :=
  ∀ y < 48, ∀ x < 48, (cfg.foff[positionClass x y]?.getD 0) + 2 ^ contextBits x y ≤ cfg.ftBits

/-- An encode-complete ROM: every row that ENC can push has a count (R240). -/
abbrev encodeComplete (cfg : Config) : Prop :=
  (∀ l < 4, countOf cfg l symEmpty ≠ 0 ∧ countOf cfg l symFill ≠ 0) ∧ (∀ l < 3, countOf cfg l symSplit ≠ 0) ∧
    ∀ p < 16, p ≠ 0 → countOf cfg leafTable p ≠ 0

/-- Capacities that suffice for every encode on every well-formed ROM (R321). -/
abbrev capacitySuffices (cfg : Config) : Prop :=
  (∀ k, cfg.vcap = some k → 10728 ≤ k) ∧ (∀ k, cfg.tcap = some k → 1637 ≤ k)

/-- The parameters' own constraints: FT_BITS, VCAP and TCAP are at least 1 (R8). -/
abbrev configLegal (cfg : Config) : Prop :=
  1 ≤ cfg.ftBits ∧ (∀ k, cfg.vcap = some k → 1 ≤ k) ∧ ∀ k, cfg.tcap = some k → 1 ≤ k

/-! ### The state -/

/-- The form of the memories: the text buffer is within its capacity (R51). The bitmap has one form by its type: two bitmaps
that read the same at every pixel are equal (`bitmap_ext` in Laws/Memory.lean). -/
def Memory.wf (s : State) : Bool :=
  match s.cfg.tcap with
  | none => true
  | some k => s.tlen ≤ k

/-- The invariant: PTR is a pixel index (R27), V and T are within their capacities (R22, R51), and CAUSE and INFO name a fault
exactly while ERR is set (R37, R38). -/
def State.Inv (s : State) : Prop :=
  s.ptr.toNat < 2304 ∧ fitsV s.cfg s.v = true ∧ Memory.wf s = true ∧ s.cause.isSome = s.err ∧ (s.err = false → s.info = 0)

/-- No fault is recorded: commands are accepted (R273). -/
def State.ready (s : State) : Prop := s.err = false

/-! ### Commands -/

/-- A macro command: its rule is written with procedures that perform many steps (R18). -/
def isMacro : Instr → Bool
  | .dleaf .. | .drg .. | .eleaf .. | .erg .. | .fenc | .fdec | .txout | .dec | .enc .. => true
  | .nop | .vclr | .vmad .. | .vdiv _ | .vrd _ | .pop _ | .push .. | .txbeg | .txin _ | .txdig | .txrev | .trd _ | .bclr
  | .bptr .. | .bbit _ | .brgb .. | .brd | .bset .. | .bget .. | .hdr | .eclr | .srst => false

/-- The causes a command with operands in range may raise (R268); TRD's ILLEGAL_COMMAND is its own range check. -/
def mayRaise : Instr → List FaultCause
  | .vmad .. | .txin _ | .txdig | .txout => [.capacityFault]
  | .vdiv _ => [.divideByZero]
  | .pop _ | .dleaf .. | .drg .. | .fenc | .fdec | .dec => [.modelFault]
  | .push .. | .eleaf .. | .erg .. => [.divideByZero, .capacityFault]
  | .trd _ => [.illegalCommand]
  | .enc .. => [.dimensionError, .modelFault, .divideByZero, .capacityFault]
  | .hdr => [.formatError]
  | .nop | .vclr | .vrd _ | .txbeg | .txrev | .bclr | .bptr .. | .bbit _ | .brgb .. | .brd | .bset .. | .bget .. | .eclr
  | .srst => []

/-- The commands that may write V (R23). -/
def writesV : Instr → Bool
  | .vclr | .vmad .. | .vdiv _ | .pop _ | .push .. | .txbeg | .txin _ | .txdig | .txout | .dleaf .. | .drg .. | .eleaf ..
  | .erg .. | .dec | .enc .. | .srst => true
  | .nop | .vrd _ | .txrev | .trd _ | .bclr | .bptr .. | .bbit _ | .brgb .. | .brd | .bset .. | .bget .. | .fenc | .fdec
  | .hdr | .eclr => false

/-- The commands that may write R (R26, R199, R318; SRST by R252). -/
def writesR : Instr → Bool
  | .vdiv _ | .vrd _ | .pop _ | .txdig | .txout | .trd _ | .brd | .bget .. | .dleaf .. | .drg .. | .dec | .enc .. | .hdr
  | .srst => true
  | .nop | .vclr | .vmad .. | .push .. | .txbeg | .txin _ | .txrev | .bclr | .bptr .. | .bbit _ | .brgb .. | .bset ..
  | .eleaf .. | .erg .. | .fenc | .fdec | .eclr => false

/-- The commands that may write PTR (R27). -/
def writesPtr : Instr → Bool
  | .bptr .. | .bbit _ | .brgb .. | .brd | .srst => true
  | .nop | .vclr | .vmad .. | .vdiv _ | .vrd _ | .pop _ | .push .. | .txbeg | .txin _ | .txdig | .txrev | .txout | .trd _
  | .bclr | .bset .. | .bget .. | .dleaf .. | .drg .. | .eleaf .. | .erg .. | .fenc | .fdec | .dec | .enc .. | .hdr
  | .eclr => false

/-- The commands that may write the bitmap (the rules of `43_bitmap.md` to `46_orchestration.md`). -/
def writesBitmap : Instr → Bool
  | .bclr | .bbit _ | .brgb .. | .bset .. | .dleaf .. | .drg .. | .fenc | .fdec | .dec | .enc .. => true
  | .nop | .vclr | .vmad .. | .vdiv _ | .vrd _ | .pop _ | .push .. | .txbeg | .txin _ | .txdig | .txrev | .txout | .trd _
  | .bptr .. | .brd | .bget .. | .eleaf .. | .erg .. | .hdr | .eclr | .srst => false

/-- The commands that may write the text buffer (R51; SRST by R252). -/
def writesText : Instr → Bool
  | .txbeg | .txdig | .txrev | .txout | .enc .. | .srst => true
  | .nop | .vclr | .vmad .. | .vdiv _ | .vrd _ | .pop _ | .push .. | .txin _ | .trd _ | .bclr | .bptr .. | .bbit _
  | .brgb .. | .brd | .bset .. | .bget .. | .dleaf .. | .drg .. | .eleaf .. | .erg .. | .fenc | .fdec | .dec | .hdr
  | .eclr => false

/-- The commands that write STATUS.NE (R33). -/
def writesNe : Instr → Bool
  | .txbeg | .txin _ | .srst => true
  | .nop | .vclr | .vmad .. | .vdiv _ | .vrd _ | .pop _ | .push .. | .txdig | .txrev | .txout | .trd _ | .bclr | .bptr ..
  | .bbit _ | .brgb .. | .brd | .bset .. | .bget .. | .dleaf .. | .drg .. | .eleaf .. | .erg .. | .fenc | .fdec | .dec
  | .enc .. | .hdr | .eclr => false

/-! ### The host -/

/-- The host presents commands one after another, each when the one before it is complete (R20, R244). -/
def presentAll : List Instr → State → Host.Outcome State Fault Refusal
  | [], s => .next s
  | i :: rest, s =>
    match present (encode i) s with
    | .next t => presentAll rest t
    | .fault f => .fault f
    | .refused r => .refused r

/-- `i`, run on `s`, ends in the fault `c` raised inside it (R272): ERR, CAUSE and INFO are written, the pieces of state the
command may write hold some value, everything else is as it was. -/
def faultsInside (i : Instr) (s : State) (c : FaultCause) : Prop :=
  ∃ (v : Nat) (r : BitVec 16) (b : Bitmap) (txt : List Byte),
    exec i s = .next { s with
      v := v, r := r, bitmap := b, text := txt, draws := s.draws + 1, err := true, cause := some c, info := encode i } ∧
    (writesV i = false → v = s.v) ∧ (writesR i = false → r = s.r) ∧ (writesBitmap i = false → b = s.bitmap) ∧
    (writesText i = false → txt = s.text)

/-- `i`, run on `s`, does what the commands `parts` do when the host presents them one after another from `s1`: if none of them
faults it ends in the same state, and if one does it raises that fault (R244, R271, R272). -/
def actsAs (i : Instr) (s : State) (parts : List Instr) (s1 : State) : Prop :=
  ∃ u, presentAll parts s1 = .next u ∧ (u.err = false → exec i s = .next u) ∧
    (u.err = true → ∃ c, u.cause = some c ∧ faultsInside i s c)

/-- The same, the host reading register R after each command (R318). -/
def presentReadingR : List Instr → State → Option (List (BitVec 16) × State)
  | [], s => some ([], s)
  | i :: rest, s =>
    match present (encode i) s with
    | .next t => (presentReadingR rest t).map fun p => (t.r :: p.1, p.2)
    | .fault _ => none
    | .refused _ => none

end Sys2Proof.Machine
end

