-- ==== Sys2Proof/Certificates/Slice0/Obligations.lean ====
section
/-! DEFINITION. The statements for the provers, from the numbered rules of spec/. `exec` is a command's own rule; `present` and
`presentAll` put the acceptance rule (R273) and the decoder before it; `step` is one move of the host. -/

open Sys2Proof Sys2Proof.Machine

/-! ### Encoding (spec/30_encoding.md) -/

/-- Every well-formed command, with every operand at every value its field admits, is what its own word decodes to (R90, R94). -/
def Obligations.DecodeInvertsEncode : Prop :=
  ∀ i : Instr, i.wellFormed = true → decode (encode i) = .ok i

/-- A word that decodes stands for a command with operands in range, and is that command's word, every bit of it (R92, R98). -/
def Obligations.EncodeInvertsDecode : Prop :=
  ∀ (w : Command) (i : Instr), decode w = .ok i → i.wellFormed = true ∧ encode i = w

/-- A word selects a row when `(W and mask) = match`: the decoder matches a word exactly when some row of the table does, the
row it takes is that row, and the rows are disjoint (R94). -/
def Obligations.DecoderFollowsDisjointRows : Prop :=
  (∀ (w : Command) (i : Instr), decodeRow w = .ok i → i.selectedBy w = true) ∧
  (∀ w : Command, (∃ j ∈ tableCommands, j.selectedBy w = true) → ∃ i, decodeRow w = .ok i) ∧
  (∀ w : Command, ∀ i ∈ tableCommands, ∀ j ∈ tableCommands, i.selectedBy w = true → j.selectedBy w = true → i = j)

/-- The assembled words of spec/95_test_vectors.md section 3, at least one for each family, decode to their commands. -/
def Obligations.SpecWordsDecode : Prop :=
  ∀ p ∈ ([(0x00000000#32, .nop), (0x02005E02#32, .vmad 94 2), (0x03010000#32, .vdiv 256), (0x04000100#32, .vrd 1),
      (0x10040000#32, .pop 4), (0x11040F00#32, .push 4 15), (0x21000023#32, .txin 35), (0x25000C00#32, .trd 12),
      (0x31050200#32, .bptr 5 2), (0x32000001#32, .bbit 1), (0x33FF8000#32, .brgb 255 128 0),
      (0x352F2F01#32, .bset 47 47 1), (0x402E2E03#32, .dleaf 46 46 3), (0x41102000#32, .drg 16 32 0),
      (0x43202000#32, .erg 32 32 0), (0x50000000#32, .fenc), (0x61303000#32, .enc 48 48),
      (0x71000000#32, .srst)] : List (Command × Instr)), decode p.1 = .ok p.2

/-! ### The step (R20, R98, R273) -/

/-- When the host presents a word, the step is the acceptance of that word, the move taken off the host's list (log 2); and when
the machine is not faulted and the word decodes, the step is that command's meaning (R20, R98, R273). -/
def Obligations.StepRunsDecodedCommand : Prop :=
  ∀ (s : State) (w : Command) (rest : List HostMove), s.moves = .command w :: rest →
    step s = present w { s with moves := rest } ∧
    (s.err = false → ∀ i, decode w = .ok i → step s = exec i { s with moves := rest })

/-- Every command terminates and every word is taken or raises a fault: a step always answers a next state (R15, R98). With no
move to come the machine stays as it is, which is the model's choice (log 3). -/
def Obligations.EveryStepAnswersNext : Prop :=
  (∀ s : State, ∃ t, step s = .next t) ∧ ∀ s : State, s.moves = [] → step s = .next s

/-- ILLEGAL_COMMAND is raised when a word matches no row, or matches one and an operand is out of range, TRD's index at or beyond
TLEN included; nothing but ERR, CAUSE and INFO is written (R262). -/
def Obligations.IllegalCommandIsPrecise : Prop :=
  ∀ (s : State) (w : Command), s.err = false →
    ((∀ j ∈ tableCommands, j.selectedBy w = false) ∨
      (∃ t, decodeRow w = .ok (.pop t) ∧ 4 < t.toNat) ∨
      (∃ t r, decodeRow w = .ok (.push t r) ∧
        (4 < t.toNat ∨ (t.toNat ≤ 3 ∧ 3 ≤ r.toNat) ∨ (t.toNat = 4 ∧ 16 ≤ r.toNat))) ∨
      (∃ x y, (decodeRow w = .ok (.bptr x y) ∨ (∃ v, decodeRow w = .ok (.bset x y v)) ∨ decodeRow w = .ok (.bget x y)) ∧
        (47 < x.toNat ∨ 47 < y.toNat)) ∨
      (∃ x y l, (decodeRow w = .ok (.dleaf x y l) ∨ decodeRow w = .ok (.drg x y l) ∨ decodeRow w = .ok (.eleaf x y l) ∨
          decodeRow w = .ok (.erg x y l)) ∧
        ¬ (x.toNat % (16 / 2 ^ l.toNat) = 0 ∧ y.toNat % (16 / 2 ^ l.toNat) = 0 ∧
          x.toNat + 16 / 2 ^ l.toNat ≤ 48 ∧ y.toNat + 16 / 2 ^ l.toNat ≤ 48)) ∨
      (∃ n, decodeRow w = .ok (.trd n) ∧ s.text.length ≤ n.toNat)) →
    present w s = .next { s with err := true, cause := some .illegalCommand, info := w }

/-- While ERR = 1 only the exact words of ECLR and SRST are executed, every other word is dropped with no state changed; while
ERR = 0 the word is decoded and executed (R273). -/
def Obligations.FaultedMachineAcceptsOnlyClearing : Prop :=
  ∀ (s : State) (w : Command),
    (s.err = true → w = 0x70000000#32 → present w s = .next { s with err := false, cause := none, info := 0 }) ∧
    (s.err = true → w = 0x71000000#32 →
      present w s = .next { s with
        v := 0, r := 0, ptr := 0, text := [], err := false, ne := false, cause := none, info := 0 }) ∧
    (s.err = true → w ≠ 0x70000000#32 → w ≠ 0x71000000#32 → present w s = .next s) ∧
    (s.err = false → ∀ i, decode w = .ok i → present w s = exec i s) ∧
    (s.err = false → ∀ e, decode w = .error e →
      present w s = .next { s with err := true, cause := some .illegalCommand, info := w })

/-- A register read is a move of the host that changes nothing but what the port delivers, faulted or not; and what each
register number delivers, 0 for a number not in the map (R34 to R40, R261). -/
def Obligations.RegisterReadPort : Prop :=
  (∀ (s : State) (n : Nat) (rest : List HostMove), s.moves = .readRegister n :: rest →
    step s = .next { s with moves := rest, readData := readRegister s n }) ∧
  ∀ s : State,
    readRegister s 0x0 = 0x00003030#32 ∧
    readRegister s 0x1 =
      BitVec.ofNat 32 ((if s.err then 2 else 0) + (if s.v = 0 then 4 else 0) + (if s.ne then 8 else 0)) ∧
    (readRegister s 0x2).toNat = (match s.cause with
      | none => 0
      | some .illegalCommand => 1
      | some .dimensionError => 2
      | some .formatError => 3
      | some .modelFault => 4
      | some .divideByZero => 5
      | some .capacityFault => 6) ∧
    readRegister s 0x3 = s.info ∧
    (readRegister s 0x4).toNat = s.r.toNat ∧
    (readRegister s 0x5).toNat = s.ptr.toNat ∧
    (readRegister s 0x6).toNat = s.text.length % 2 ^ 32 ∧
    readRegister s 0x8 = 0x67616D69#32 ∧ readRegister s 0x9 = 0x2D782F65#32 ∧
    readRegister s 0xA = 0x63616678#32 ∧ readRegister s 0xB = 0x00000065#32 ∧
    ∀ n, n = 0x7 ∨ 0xC ≤ n → readRegister s n = 0

/-- The hardware reset clears every register and the text, faulted or not, leaves the configuration alone, and leaves some
bitmap, a free value (logs 5 and 6; R44, R300, R301). -/
def Obligations.HardwareResetClearsRegisters : Prop :=
  ∀ (s : State) (rest : List HostMove), s.moves = .reset :: rest →
    ∃ b : Bitmap, step s = .next { s with
      moves := rest, v := 0, r := 0, ptr := 0, text := [], err := false, ne := false, cause := none, info := 0,
      bitmap := b, draws := s.draws + 1 }

/-- After reset every register is 0, T is empty, and STATUS reads 0x00000004 (R44, R302). -/
def Obligations.ResetStateRegisters : Prop :=
  State.reset.v = 0 ∧ State.reset.r = 0 ∧ State.reset.ptr = 0 ∧ State.reset.text = [] ∧ State.reset.err = false ∧
    State.reset.ne = false ∧ State.reset.cause = none ∧ State.reset.info = 0 ∧
    readRegister State.reset 0x1 = 0x00000004#32

/-! ### Invariants and whole-machine rules -/

/-- The state after reset meets the invariant. -/
def Obligations.ResetMeetsInvariant : Prop := State.reset.Inv

/-- Every step keeps the invariant: PTR stays a pixel index, V and T stay within their capacities (after a fault inside a macro
command too), CAUSE and INFO name a fault exactly while ERR is set (R22, R27, R37, R38, R51, R272). -/
def Obligations.StepKeepsInvariant : Prop :=
  ∀ s t : State, s.Inv → step s = .next t → t.Inv

/-- No step changes the ROM or the capacities, resets and faults included (R67, R301). -/
def Obligations.StepKeepsConfiguration : Prop :=
  ∀ s t : State, step s = .next t → t.cfg = s.cfg

/-- A command writes only the state its rule names, whether it completes or faults: V (R23), R (R26), PTR (R27), the bitmap, the
text, NE (R33); no command touches the configuration or the host's side. -/
def Obligations.CommandsWriteOnlyTheirState : Prop :=
  ∀ (i : Instr) (s t : State), exec i s = .next t →
    (writesV i = false → t.v = s.v) ∧ (writesR i = false → t.r = s.r) ∧ (writesPtr i = false → t.ptr = s.ptr) ∧
    (writesBitmap i = false → ∀ x y, pixelAt t.bitmap x y = pixelAt s.bitmap x y) ∧
    (writesText i = false → t.text = s.text) ∧ (writesNe i = false → t.ne = s.ne) ∧
    t.cfg = s.cfg ∧ t.moves = s.moves ∧ t.readData = s.readData ∧ (isMacro i = false → t.draws = s.draws)

/-- ERR, CAUSE and INFO are written only by a fault, which records the command's own word, and by ECLR and SRST, which clear them
(R30, R37, R38). -/
def Obligations.FaultRegistersWrittenOnlyByFaultsAndClears : Prop :=
  ∀ (i : Instr) (s t : State), exec i s = .next t →
    (t.err = s.err ∧ t.cause = s.cause ∧ t.info = s.info) ∨
    (∃ c, t.err = true ∧ t.cause = some c ∧ t.info = encode i) ∨
    ((i = .eclr ∨ i = .srst) ∧ t.err = false ∧ t.cause = none ∧ t.info = 0)

/-- Which command can raise what; and with a ROM that is well-formed, filter-complete and encode-complete, level 3 without a
split, and unbounded capacities, the only faults left are 1, 2, 3 and `VDIV 0`, PUSH on a zero-count row, or ELEAF on a region
with an aligned 2×2 block whose pattern has count 0 (R268). -/
def Obligations.FaultsEachCommandRaises : Prop :=
  ∀ (i : Instr) (s t : State), i.wellFormed = true → s.err = false → exec i s = .next t → t.err = true →
    (∃ c ∈ mayRaise i, t.cause = some c) ∧
    (romWellFormed s.cfg → filterComplete s.cfg → encodeComplete s.cfg → noDeepSplit s.cfg → s.cfg.vcap = none →
      s.cfg.tcap = none →
      (t.cause = some .illegalCommand ∨ t.cause = some .dimensionError ∨ t.cause = some .formatError) ∨
      i = .vdiv 0 ∨ (∃ a r, i = .push a r ∧ countOf s.cfg a.toNat r.toNat = 0) ∨
      ∃ x y l, i = .eleaf x y l ∧ ∃ bx < 8 / 2 ^ l.toNat, ∃ by' < 8 / 2 ^ l.toNat,
        countOf s.cfg leafTable (blockPattern s.bitmap (x.toNat + 2 * bx) (y.toNat + 2 * by')) = 0)

/-- Whatever word the host presents: a fault of a primitive command, and ILLEGAL_COMMAND, DIMENSION_ERROR and FORMAT_ERROR
always, leave a state that differs from the one before only in ERR, CAUSE and INFO (R271). -/
def Obligations.FaultsArePrecise : Prop :=
  ∀ (w : Command) (s t : State) (c : FaultCause), s.err = false → present w s = .next t → t.err = true →
    t.cause = some c →
    ((∀ i, decode w = .ok i → isMacro i = false) ∨ c = .illegalCommand ∨ c = .dimensionError ∨ c = .formatError) →
    t = { s with err := true, cause := some c, info := w }

/-- MODEL_FAULT, DIVIDE_BY_ZERO or CAPACITY_FAULT inside a macro command: PTR, NE and every piece the command never writes are
unchanged, the pieces it may write hold values their capacities allow, and the fault is recorded (R272). What those values are is
free (log 7): nothing here says. -/
def Obligations.MacroFaultScope : Prop :=
  ∀ (i : Instr) (s t : State) (c : FaultCause), s.Inv → isMacro i = true → s.err = false → exec i s = .next t →
    t.err = true → t.cause = some c → (c = .modelFault ∨ c = .divideByZero ∨ c = .capacityFault) →
    t.ptr = s.ptr ∧ t.ne = s.ne ∧ t.info = encode i ∧
    (writesV i = false → t.v = s.v) ∧ (writesR i = false → t.r = s.r) ∧ (writesText i = false → t.text = s.text) ∧
    (writesBitmap i = false → t.bitmap = s.bitmap) ∧
    (∀ k, s.cfg.vcap = some k → t.v < 2 ^ k) ∧ (∀ k, s.cfg.tcap = some k → t.text.length ≤ k)

/-! ### The arbitrary-precision unit (spec/40_apu.md) -/

/-- VCLR: `V <- 0`, nothing else, never a fault; STATUS.Z reads 1 afterwards; another word of its opcode is illegal (R126). -/
def Obligations.VclrClearsV : Prop :=
  encode .vclr = 0x01000000#32 ∧
  (∀ w : Command, w.extractLsb' 24 8 = 0x01#8 → w ≠ 0x01000000#32 → ∃ e, decode w = .error e) ∧ ∀ s : State,
    exec .vclr s = .next { s with v := 0 } ∧ (readRegister { s with v := 0 } 0x1).getLsbD 2 = true

/-- VMAD: `V <- V*m + add`, V only; CAPACITY_FAULT, precise, when the value is not below `2^VCAP` (R127). -/
def Obligations.VmadMultipliesAndAdds : Prop :=
  ∀ (m : BitVec 16) (add : Byte) (s : State),
    encode (.vmad m add) = BitVec.ofNat 32 (0x02000000 + m.toNat * 256 + add.toNat) ∧
    ((∀ k, s.cfg.vcap = some k → s.v * m.toNat + add.toNat < 2 ^ k) →
      exec (.vmad m add) s = .next { s with v := s.v * m.toNat + add.toNat }) ∧
    ((∃ k, s.cfg.vcap = some k ∧ 2 ^ k ≤ s.v * m.toNat + add.toNat) →
      exec (.vmad m add) s =
        .next { s with err := true, cause := some .capacityFault, info := encode (.vmad m add) })

/-- VDIV: floor division of V, the remainder to R; DIVIDE_BY_ZERO, precise, when d = 0 (R128). -/
def Obligations.VdivDividesWithRemainder : Prop :=
  ∀ (d : BitVec 16) (s : State),
    encode (.vdiv d) = BitVec.ofNat 32 (0x03000000 + d.toNat * 256) ∧
    (d ≠ 0 → ∃ t, exec (.vdiv d) s = .next t ∧ t = { s with v := t.v, r := t.r } ∧
      s.v = t.v * d.toNat + t.r.toNat ∧ t.r.toNat < d.toNat ∧ (t.v = 0 ↔ s.v < d.toNat)) ∧
    (d = 0 → exec (.vdiv d) s = .next { s with err := true, cause := some .divideByZero, info := 0x03000000#32 })

/-- VRD: `R <- (V div 256^i) mod 256`, R only, never a fault (R130). -/
def Obligations.VrdReadsByteOfV : Prop :=
  ∀ (i : BitVec 16) (s : State),
    encode (.vrd i) = BitVec.ofNat 32 (0x04000000 + i.toNat * 256) ∧
    ∃ t, exec (.vrd i) s = .next t ∧ t = { s with r := t.r } ∧ t.r.toNat = s.v / 256 ^ i.toNat % 256

/-! ### The symbol coder (spec/41_symbol_coder.md) -/

/-- POP: the lowest-numbered row that contains `n = V mod 256` gives `V <- q*count + (n - base)` and R; MODEL_FAULT, precise, when
no row contains n (R141). -/
def Obligations.PopDecodesOneSymbol : Prop :=
  ∀ (t : Byte) (s : State), t.toNat ≤ 4 →
    encode (.pop t) = BitVec.ofNat 32 (0x10000000 + t.toNat * 65536) ∧
    (∀ (r : Nat) (row : RomRow), (tableRows s.cfg t.toNat)[r]? = some row →
      row.base.val ≤ s.v % 256 → s.v % 256 < row.base.val + row.count.val →
      (∀ j < r, ∀ row', (tableRows s.cfg t.toNat)[j]? = some row' →
        ¬ (row'.base.val ≤ s.v % 256 ∧ s.v % 256 < row'.base.val + row'.count.val)) →
      exec (.pop t) s = .next { s with
        v := s.v / 256 * row.count.val + (s.v % 256 - row.base.val), r := BitVec.ofNat 16 r }) ∧
    ((∀ row ∈ tableRows s.cfg t.toNat,
        ¬ (row.base.val ≤ s.v % 256 ∧ s.v % 256 < row.base.val + row.count.val)) →
      exec (.pop t) s = .next { s with err := true, cause := some .modelFault, info := encode (.pop t) })

/-- PUSH: `V <- (V div count)*256 + (V mod count + base)`, V only; DIVIDE_BY_ZERO before CAPACITY_FAULT, both precise (R143). -/
def Obligations.PushEncodesOneSymbol : Prop :=
  ∀ (t r : Byte) (row : RomRow) (s : State), t.toNat ≤ 4 → (tableRows s.cfg t.toNat)[r.toNat]? = some row →
    encode (.push t r) = BitVec.ofNat 32 (0x11000000 + t.toNat * 65536 + r.toNat * 256) ∧
    (row.count.val = 0 →
      exec (.push t r) s = .next { s with err := true, cause := some .divideByZero, info := encode (.push t r) }) ∧
    (row.count.val ≠ 0 →
      (∀ k, s.cfg.vcap = some k → s.v / row.count.val * 256 + (s.v % row.count.val + row.base.val) < 2 ^ k) →
      exec (.push t r) s = .next { s with v := s.v / row.count.val * 256 + (s.v % row.count.val + row.base.val) }) ∧
    (row.count.val ≠ 0 →
      (∃ k, s.cfg.vcap = some k ∧ 2 ^ k ≤ s.v / row.count.val * 256 + (s.v % row.count.val + row.base.val)) →
      exec (.push t r) s = .next { s with err := true, cause := some .capacityFault, info := encode (.push t r) })

/-- The operands of POP and PUSH: selector t names `LVL[t]` (three rows) or, for 4, `LEAF` (sixteen rows); t from 5 up, a row
number not below the row count, and a POP word with a row field are ILLEGAL_COMMAND with nothing else written (R140). -/
def Obligations.CoderOperandsAreChecked : Prop :=
  (∀ (cfg : Config) (t : Fin 4), tableRows cfg t.val = (cfg.lvl[t.val]).toList) ∧
  (∀ cfg : Config, tableRows cfg 4 = cfg.leaf.toList) ∧
  (∀ (t : Byte) (s : State), 5 ≤ t.toNat →
    exec (.pop t) s = .next { s with err := true, cause := some .illegalCommand, info := encode (.pop t) }) ∧
  (∀ (t r : Byte) (s : State), (5 ≤ t.toNat ∨ (t.toNat ≤ 3 ∧ 3 ≤ r.toNat) ∨ (t.toNat = 4 ∧ 16 ≤ r.toNat)) →
    exec (.push t r) s = .next { s with err := true, cause := some .illegalCommand, info := encode (.push t r) }) ∧
  ∀ w : Command, w.extractLsb' 24 8 = 0x10#8 → w.extractLsb' 8 8 ≠ 0#8 → ∃ e, decode w = .error e

/-- PUSH then POP with the same well-formed table returns the row and restores V; POP then PUSH of the popped row restores V
(R145). -/
def Obligations.PushAndPopAreInverse : Prop :=
  ∀ (t : Byte) (s : State), t.toNat ≤ 4 → tableWellFormed (tableRows s.cfg t.toNat) →
    (∀ (r : Byte) (row : RomRow), (tableRows s.cfg t.toNat)[r.toNat]? = some row → 1 ≤ row.count.val →
      (∀ k, s.cfg.vcap = some k → s.v / row.count.val * 256 + (s.v % row.count.val + row.base.val) < 2 ^ k) →
      ∃ s1, exec (.push t r) s = .next s1 ∧ exec (.pop t) s1 = .next { s with r := r.setWidth 16 }) ∧
    ((∀ k, s.cfg.vcap = some k → s.v < 2 ^ k) →
      ∃ (r : Byte) (s1 : State), exec (.pop t) s = .next s1 ∧ s1.r = r.setWidth 16 ∧
        exec (.push t r) s1 = .next { s with r := s1.r })

/-- Pushing symbols from the last to the first and then popping with their tables from the first to the last returns the rows in
order and leaves V as it was (R146). With V unbounded every push completes. -/
def Obligations.SymbolSequenceRoundTrip : Prop :=
  ∀ (syms : List (Byte × Byte)) (s : State), s.err = false →
    (∀ p ∈ syms, p.1.toNat ≤ 4 ∧ tableWellFormed (tableRows s.cfg p.1.toNat) ∧
      countOf s.cfg p.1.toNat p.2.toNat ≠ 0) →
    ∃ s1, presentAll (syms.reverse.map fun p => .push p.1 p.2) s = .next s1 ∧
      (s.cfg.vcap = none → s1.err = false) ∧
      (s1.err = false → ∃ s2, presentReadingR (syms.map fun p => .pop p.1) s1 =
        some (syms.map fun p => p.2.setWidth 16, s2) ∧ s2.v = s.v ∧ s2.err = false)

/-! ### The text codec (spec/42_text_codec.md) -/

/-- TXBEG: V 0, NE 0, the text empty, nothing else; twice is the same as once; STATUS.Z reads 1 afterwards (R152). -/
def Obligations.TxbegStartsText : Prop :=
  encode .txbeg = 0x20000000#32 ∧ ∀ s : State,
    exec .txbeg s = .next { s with v := 0, ne := false, text := [] } ∧
    exec .txbeg { s with v := 0, ne := false, text := [] } = .next { s with v := 0, ne := false, text := [] } ∧
    (readRegister { s with v := 0, ne := false, text := [] } 0x1).getLsbD 2 = true

/-- TXIN: a character 33 to 126 is folded into V, any other byte is skipped, NE is set by both; CAPACITY_FAULT, precise, NE
included (R153). -/
def Obligations.TxinFoldsCharacter : Prop :=
  ∀ (ch : Byte) (s : State),
    encode (.txin ch) = BitVec.ofNat 32 (0x21000000 + ch.toNat) ∧
    (33 ≤ ch.toNat ∧ ch.toNat ≤ 126 →
      (∀ k, s.cfg.vcap = some k → s.v * 94 + (ch.toNat - 33) < 2 ^ k) →
      exec (.txin ch) s = .next { s with v := s.v * 94 + (ch.toNat - 33), ne := true }) ∧
    (33 ≤ ch.toNat ∧ ch.toNat ≤ 126 →
      (∃ k, s.cfg.vcap = some k ∧ 2 ^ k ≤ s.v * 94 + (ch.toNat - 33)) →
      exec (.txin ch) s = .next { s with err := true, cause := some .capacityFault, info := encode (.txin ch) }) ∧
    (ch.toNat < 33 ∨ 126 < ch.toNat → exec (.txin ch) s = .next { s with ne := true })

/-- TXDIG: the low base-94 digit of V to R and, as a character, to the end of T; CAPACITY_FAULT, precise, on a full buffer
(R158). -/
def Obligations.TxdigExtractsDigit : Prop :=
  encode .txdig = 0x22000000#32 ∧ ∀ s : State,
    ((∀ k, s.cfg.tcap = some k → s.text.length < k) →
      ∃ c : Byte, c.toNat = 33 + s.v % 94 ∧
        exec .txdig s = .next { s with v := s.v / 94, text := s.text ++ [c], r := BitVec.ofNat 16 (s.v % 94) }) ∧
    ((∃ k, s.cfg.tcap = some k ∧ k ≤ s.text.length) →
      exec .txdig s = .next { s with err := true, cause := some .capacityFault, info := 0x22000000#32 })

/-- TXREV: every `T[i]` becomes the old `T[TLEN-1-i]`, T only; twice restores T (R159). -/
def Obligations.TxrevReversesText : Prop :=
  encode .txrev = 0x23000000#32 ∧ ∀ s : State, ∃ txt : List Byte,
    exec .txrev s = .next { s with text := txt } ∧ txt.length = s.text.length ∧
    (∀ i < s.text.length, txt[i]? = s.text[s.text.length - 1 - i]?) ∧
    exec .txrev { s with text := txt } = .next s

/-- TXOUT: the text is V in base 94, most significant digit first, a single `!` for V = 0; V ends at 0 and R holds the last digit
extracted. If the digits do not fit, CAPACITY_FAULT with V, R and T unspecified and nothing else changed (R160). -/
def Obligations.TxoutWritesBase94 : Prop :=
  encode .txout = 0x24000000#32 ∧ ∀ s : State,
    let digits := if s.v = 0 then [0] else Nat.digits 94 s.v
    ((∀ k, s.cfg.tcap = some k → digits.length ≤ k) →
      exec .txout s = .next { s with
        v := 0, text := digits.reverse.map fun d => BitVec.ofNat 8 (33 + d),
        r := BitVec.ofNat 16 (digits.getLast?.getD 0) }) ∧
    ((∃ k, s.cfg.tcap = some k ∧ k < digits.length) →
      ∃ (v : Nat) (r : BitVec 16) (txt : List Byte), exec .txout s = .next { s with
        v := v, r := r, text := txt, draws := s.draws + 1,
        err := true, cause := some .capacityFault, info := 0x24000000#32 })

/-- TRD: `R <- T[i]`, R only, the buffer not consumed; ILLEGAL_COMMAND, precise, at or beyond TLEN (R162). -/
def Obligations.TrdReadsTextByte : Prop :=
  ∀ (i : BitVec 16) (s : State),
    encode (.trd i) = BitVec.ofNat 32 (0x25000000 + i.toNat * 256) ∧
    (∀ c : Byte, s.text[i.toNat]? = some c → exec (.trd i) s = .next { s with r := c.setWidth 16 }) ∧
    (s.text.length ≤ i.toNat →
      exec (.trd i) s = .next { s with err := true, cause := some .illegalCommand, info := encode (.trd i) })

/-- After TXBEG and a string, V is the value in base 94 of the string's data characters, the first the most significant (R155):
0 for a string without one. -/
def Obligations.TextLoadGivesBase94Value : Prop :=
  ∀ (cs : List Byte) (s : State), s.err = false →
    let digits := (cs.filter fun c => 33 ≤ c.toNat ∧ c.toNat ≤ 126).map fun c => c.toNat - 33
    (∀ k, s.cfg.vcap = some k → Nat.ofDigits 94 digits.reverse < 2 ^ k) →
    presentAll (loadText cs) s = .next { s with v := Nat.ofDigits 94 digits.reverse, ne := !cs.isEmpty, text := [] }

/-- The V reached from a byte string equals the V reached from its data characters alone; NE may differ only for a string of
non-data characters alone (R154). -/
def Obligations.TextLoadIgnoresNoise : Prop :=
  ∀ (cs : List Byte) (s : State), s.err = false →
    ∃ a b, presentAll (loadText cs) s = .next a ∧
      presentAll (loadText (cs.filter fun c => 33 ≤ c.toNat ∧ c.toNat ≤ 126)) s = .next b ∧
      a.v = b.v ∧ a.err = b.err ∧
      (a.err = false → (cs = [] ∨ ∃ c ∈ cs, 33 ≤ c.toNat ∧ c.toNat ≤ 126) → a.ne = b.ne)

/-- The text of V loads back to V; and a loaded string comes out without its non-data and its leading `!` characters, or as `!`
if nothing is left (R161). -/
def Obligations.TextRoundTrip : Prop :=
  (∀ s : State, s.err = false → (∀ k, s.cfg.vcap = some k → s.v < 2 ^ k) →
    ∃ s1, exec .txout s = .next s1 ∧ (s.cfg.tcap = none → s1.err = false) ∧
      (s1.err = false → ∃ s2, presentAll (loadText s1.text) s1 = .next s2 ∧ s2.v = s.v ∧ s2.err = false)) ∧
  ∀ (cs : List Byte) (s a : State), s.err = false → presentAll (loadText cs) s = .next a → a.err = false →
    ∃ b, exec .txout a = .next b ∧ (s.cfg.tcap = none → b.err = false) ∧
      (b.err = false →
        let kept := (cs.filter fun c => 33 ≤ c.toNat ∧ c.toNat ≤ 126).dropWhile fun c => c = 33#8
        b.text = if kept = [] then [33#8] else kept)

/-! ### Bitmap access (spec/43_bitmap.md) -/

/-- BCLR: every pixel white, the bitmap only (R173). -/
def Obligations.BclrWhitensEveryPixel : Prop :=
  encode .bclr = 0x30000000#32 ∧ ∀ s : State, ∃ b : Bitmap,
    exec .bclr s = .next { s with bitmap := b } ∧ (∀ x y, pixelAt b x y = false) ∧
    ∀ x y : Byte, x.toNat ≤ 47 → y.toNat ≤ 47 →
      exec (.bget x y) { s with bitmap := b } = .next { s with bitmap := b, r := 0 }

/-- BPTR: `PTR <- y*48 + x`, PTR only; a coordinate above 47 is ILLEGAL_COMMAND, precise, for BPTR, BSET and BGET (R172). -/
def Obligations.BptrSetsPointer : Prop :=
  ∀ (x y : Byte) (s : State),
    encode (.bptr x y) = BitVec.ofNat 32 (0x31000000 + x.toNat * 65536 + y.toNat * 256) ∧
    (x.toNat ≤ 47 → y.toNat ≤ 47 → ∃ p : BitVec 12, exec (.bptr x y) s = .next { s with ptr := p } ∧
      p.toNat = y.toNat * 48 + x.toNat) ∧
    (47 < x.toNat ∨ 47 < y.toNat → ∀ i : Instr, (i = .bptr x y ∨ (∃ v, i = .bset x y v) ∨ i = .bget x y) →
      exec i s = .next { s with err := true, cause := some .illegalCommand, info := encode i })

/-- BBIT: the pixel at PTR as given, every other pixel as it was, and PTR advanced, from 2303 to 0; a value above 1 is illegal
(R171, R174). -/
def Obligations.BbitStreamsPixel : Prop :=
  (∀ w : Command, w.extractLsb' 24 8 = 0x32#8 → w.extractLsb' 1 7 ≠ 0#7 → ∃ e, decode w = .error e) ∧
  ∀ (v : BitVec 1) (s : State), s.ptr.toNat < 2304 →
    encode (.bbit v) = BitVec.ofNat 32 (0x32000000 + v.toNat) ∧
    ∃ (b : Bitmap) (p : BitVec 12), exec (.bbit v) s = .next { s with bitmap := b, ptr := p } ∧
      p.toNat = (if s.ptr.toNat = 2303 then 0 else s.ptr.toNat + 1) ∧
      pixel b s.ptr.toNat = (v == 1#1) ∧ ∀ j ≠ s.ptr.toNat, pixel b j = pixel s.bitmap j

/-- BRGB: black exactly when every channel is 0, else white; written at PTR, which advances (R175, R176). -/
def Obligations.BrgbNormalisesPixel : Prop :=
  ∀ (red green blue : Byte) (s : State), s.ptr.toNat < 2304 →
    encode (.brgb red green blue) =
      BitVec.ofNat 32 (0x33000000 + red.toNat * 65536 + green.toNat * 256 + blue.toNat) ∧
    ∃ (b : Bitmap) (p : BitVec 12), exec (.brgb red green blue) s = .next { s with bitmap := b, ptr := p } ∧
      p.toNat = (if s.ptr.toNat = 2303 then 0 else s.ptr.toNat + 1) ∧
      (pixel b s.ptr.toNat = true ↔ red.toNat = 0 ∧ green.toNat = 0 ∧ blue.toNat = 0) ∧
      ∀ j ≠ s.ptr.toNat, pixel b j = pixel s.bitmap j

/-- BRD: the pixel at PTR to R, 0 or 1, and PTR advanced; the bitmap unchanged (R177). -/
def Obligations.BrdReadsPixel : Prop :=
  encode .brd = 0x34000000#32 ∧ ∀ s : State, s.ptr.toNat < 2304 →
    ∃ p : BitVec 12, p.toNat = (if s.ptr.toNat = 2303 then 0 else s.ptr.toNat + 1) ∧
      exec .brd s = .next { s with r := if pixel s.bitmap s.ptr.toNat then 1 else 0, ptr := p }

/-- BSET writes the one pixel (x, y) as given and leaves PTR and every other pixel; BGET reads it to R, 0 or 1 (R178, R179). A
coordinate above 47, or a must-be-zero bit set, is ILLEGAL_COMMAND, precise. -/
def Obligations.BsetWritesAndBgetReadsOnePixel : Prop :=
  (∀ w : Command, w.extractLsb' 24 8 = 0x35#8 → w.extractLsb' 1 7 ≠ 0#7 → ∃ e, decode w = .error e) ∧
  (∀ w : Command, w.extractLsb' 24 8 = 0x36#8 → w.extractLsb' 0 8 ≠ 0#8 → ∃ e, decode w = .error e) ∧
  ∀ (x y : Byte) (v : BitVec 1) (s : State),
    encode (.bset x y v) = BitVec.ofNat 32 (0x35000000 + x.toNat * 65536 + y.toNat * 256 + v.toNat) ∧
    encode (.bget x y) = BitVec.ofNat 32 (0x36000000 + x.toNat * 65536 + y.toNat * 256) ∧
    (x.toNat ≤ 47 → y.toNat ≤ 47 →
      (∃ b : Bitmap, exec (.bset x y v) s = .next { s with bitmap := b } ∧
        ∀ i j, pixelAt b i j = if i = x.toNat ∧ j = y.toNat then v == 1#1 else pixelAt s.bitmap i j) ∧
      exec (.bget x y) s = .next { s with r := if pixelAt s.bitmap x.toNat y.toNat then 1 else 0 }) ∧
    (47 < x.toNat ∨ 47 < y.toNat →
      exec (.bset x y v) s = .next { s with err := true, cause := some .illegalCommand, info := encode (.bset x y v) } ∧
      exec (.bget x y) s = .next { s with err := true, cause := some .illegalCommand, info := encode (.bget x y) })

/-- A whole image streamed from `BPTR 0, 0` writes every pixel, in raster order, and leaves PTR at 0 again (R171, R244). -/
def Obligations.ImageLoadWritesEveryPixel : Prop :=
  ∀ (pixels : List Bool) (s : State), s.err = false → pixels.length = 2304 →
    ∃ b : Bitmap, presentAll (loadImage pixels) s = .next { s with bitmap := b, ptr := 0 } ∧
      ∀ y < 48, ∀ x < 48, pixels[y * 48 + x]? = some (pixelAt b x y)

/-! ### The quad-tree engine (spec/44_quadtree.md) -/

/-- The words of DLEAF, DRG, ELEAF and ERG for every operand (R193, R195, R201, R203); and a region operand that is not aligned to
its size or not inside the grid is ILLEGAL_COMMAND with nothing else written, for all four commands (R63, R190). -/
def Obligations.RegionOperandsAreChecked : Prop :=
  ∀ (x y : Byte) (l : BitVec 2) (s : State),
    encode (.dleaf x y l) = BitVec.ofNat 32 (0x40000000 + x.toNat * 65536 + y.toNat * 256 + l.toNat) ∧
    encode (.drg x y l) = BitVec.ofNat 32 (0x41000000 + x.toNat * 65536 + y.toNat * 256 + l.toNat) ∧
    encode (.eleaf x y l) = BitVec.ofNat 32 (0x42000000 + x.toNat * 65536 + y.toNat * 256 + l.toNat) ∧
    encode (.erg x y l) = BitVec.ofNat 32 (0x43000000 + x.toNat * 65536 + y.toNat * 256 + l.toNat) ∧
    (¬ (x.toNat % (16 / 2 ^ l.toNat) = 0 ∧ y.toNat % (16 / 2 ^ l.toNat) = 0 ∧
        x.toNat + 16 / 2 ^ l.toNat ≤ 48 ∧ y.toNat + 16 / 2 ^ l.toNat ≤ 48) →
      ∀ i : Instr, (i = .dleaf x y l ∨ i = .drg x y l ∨ i = .eleaf x y l ∨ i = .erg x y l) →
        exec i s = .next { s with err := true, cause := some .illegalCommand, info := encode i })

/-- DLEAF on any leaf table: on a 2×2 block it is one pop of the leaf table, whose row's four bits become the four pixels, every
other pixel as it was, or MODEL_FAULT if no row contains `V mod 256`; on a larger region it does what DLEAF on the quadrants TL,
TR, BL, BR does, a fault of theirs included; and when it completes it writes V, R and pixels of the region only (R193, R265, R272;
the state after a fault is free, logs 6 and 7). On a well-formed leaf table it completes. -/
def Obligations.DleafRunsQuadrantsInOrder : Prop :=
  ∀ (x y : Byte) (l : BitVec 2) (s : State), s.err = false → (Instr.dleaf x y l).wellFormed = true →
    let h : Byte := BitVec.ofNat 8 (8 / 2 ^ l.toNat)
    let quadrants : List Instr :=
      [.dleaf x y (l + 1), .dleaf (x + h) y (l + 1), .dleaf x (y + h) (l + 1), .dleaf (x + h) (y + h) (l + 1)]
    (tableWellFormed (tableRows s.cfg leafTable) →
      ∃ t, exec (.dleaf x y l) s = .next t ∧ t.err = false ∧
        (l = 3 → ∃ s1, exec (.pop 4) s = .next s1 ∧ s1.err = false) ∧
        (l ≠ 3 → presentAll quadrants s = .next t)) ∧
    (∀ t, exec (.dleaf x y l) s = .next t → t.err = false →
      t = { s with v := t.v, r := t.r, bitmap := t.bitmap } ∧
      ∀ i j, ¬ (x.toNat ≤ i ∧ i < x.toNat + 16 / 2 ^ l.toNat ∧ y.toNat ≤ j ∧ j < y.toNat + 16 / 2 ^ l.toNat) →
        pixelAt t.bitmap i j = pixelAt s.bitmap i j) ∧
    (l = 3 → ∀ s1, exec (.pop 4) s = .next s1 → s1.err = false →
      ∃ b : Bitmap, exec (.dleaf x y l) s = .next { s with v := s1.v, r := s1.r, bitmap := b } ∧
        ∀ i j, pixelAt b i j =
          if i = x.toNat ∧ j = y.toNat then s1.r.getLsbD 0
          else if i = x.toNat + 1 ∧ j = y.toNat then s1.r.getLsbD 1
          else if i = x.toNat ∧ j = y.toNat + 1 then s1.r.getLsbD 2
          else if i = x.toNat + 1 ∧ j = y.toNat + 1 then s1.r.getLsbD 3
          else pixelAt s.bitmap i j) ∧
    (l = 3 → (∀ row ∈ tableRows s.cfg leafTable,
        ¬ (row.base.val ≤ s.v % 256 ∧ s.v % 256 < row.base.val + row.count.val)) →
      faultsInside (.dleaf x y l) s .modelFault) ∧
    (l ≠ 3 → actsAs (.dleaf x y l) s quadrants s)

/-- DRG on a well-formed ROM without a split at level 3 completes: it pops the region's symbol; S_EMPTY writes nothing more,
S_FILL is DLEAF on the region, S_SPLIT is DRG on the quadrants TL, TR, BL, BR; and no pixel outside the region changes
(R194, R195). On any ROM: MODEL_FAULT if no row of the level's table contains `V mod 256`; MODEL_FAULT if the symbol is S_SPLIT at
level 3; else what the symbol says, a fault of DLEAF or of a quadrant included; and when it completes it writes V, R and pixels of
the region only (R194, R265, R272; the state after a fault is free, logs 6 and 7). -/
def Obligations.DrgFollowsItsSymbol : Prop :=
  ∀ (x y : Byte) (l : BitVec 2) (s : State), s.err = false → (Instr.drg x y l).wellFormed = true →
    let h : Byte := BitVec.ofNat 8 (8 / 2 ^ l.toNat)
    let quadrants : List Instr :=
      [.drg x y (l + 1), .drg (x + h) y (l + 1), .drg x (y + h) (l + 1), .drg (x + h) (y + h) (l + 1)]
    (romWellFormed s.cfg → noDeepSplit s.cfg →
      ∃ s1 t, exec (.pop (l.setWidth 8)) s = .next s1 ∧ exec (.drg x y l) s = .next t ∧
        t = { s with v := t.v, r := t.r, bitmap := t.bitmap } ∧ s1.r.toNat ≤ 2 ∧
        (s1.r = 0 → t = s1) ∧ (s1.r = 1 → exec (.dleaf x y l) s1 = .next t) ∧
        (s1.r = 2 → l ≠ 3 ∧ presentAll quadrants s1 = .next t) ∧
        ∀ i j, ¬ (x.toNat ≤ i ∧ i < x.toNat + 16 / 2 ^ l.toNat ∧ y.toNat ≤ j ∧ j < y.toNat + 16 / 2 ^ l.toNat) →
          pixelAt t.bitmap i j = pixelAt s.bitmap i j) ∧
    (∀ t, exec (.drg x y l) s = .next t → t.err = false →
      t = { s with v := t.v, r := t.r, bitmap := t.bitmap } ∧
      ∀ i j, ¬ (x.toNat ≤ i ∧ i < x.toNat + 16 / 2 ^ l.toNat ∧ y.toNat ≤ j ∧ j < y.toNat + 16 / 2 ^ l.toNat) →
        pixelAt t.bitmap i j = pixelAt s.bitmap i j) ∧
    ((∀ row ∈ tableRows s.cfg l.toNat,
        ¬ (row.base.val ≤ s.v % 256 ∧ s.v % 256 < row.base.val + row.count.val)) →
      faultsInside (.drg x y l) s .modelFault) ∧
    ∀ s1, exec (.pop (l.setWidth 8)) s = .next s1 → s1.err = false →
      (s1.r = 0 → exec (.drg x y l) s = .next s1) ∧
      (s1.r = 1 → actsAs (.drg x y l) s [.dleaf x y l] s1) ∧
      (s1.r = 2 → l = 3 → faultsInside (.drg x y l) s .modelFault) ∧
      (s1.r = 2 → l ≠ 3 → actsAs (.drg x y l) s quadrants s1)

/-- ELEAF, with V unbounded and a count for the pattern of every block of the region, completes: on a 2×2 block it pushes the
block's pattern; on a larger region it is ELEAF on the quadrants BR, BL, TR, TL; it writes V only. A 2×2 block whose pattern has
count 0 is DIVIDE_BY_ZERO (R201). With any capacity it does what that push or those quadrants do, their fault included (R201,
R272; the state after a fault is free, logs 6 and 7). -/
def Obligations.EleafRunsQuadrantsInReverse : Prop :=
  ∀ (x y : Byte) (l : BitVec 2) (s : State), s.err = false → (Instr.eleaf x y l).wellFormed = true →
    let h : Byte := BitVec.ofNat 8 (8 / 2 ^ l.toNat)
    let quadrants : List Instr :=
      [.eleaf (x + h) (y + h) (l + 1), .eleaf x (y + h) (l + 1), .eleaf (x + h) y (l + 1), .eleaf x y (l + 1)]
    (s.cfg.vcap = none →
      ((∀ i < 8 / 2 ^ l.toNat, ∀ j < 8 / 2 ^ l.toNat,
          countOf s.cfg leafTable (blockPattern s.bitmap (x.toNat + 2 * i) (y.toNat + 2 * j)) ≠ 0) →
        ∃ t, exec (.eleaf x y l) s = .next t ∧ t = { s with v := t.v } ∧
          (l = 3 → exec (.push 4 (BitVec.ofNat 8 (blockPattern s.bitmap x.toNat y.toNat))) s = .next t) ∧
          (l ≠ 3 → presentAll quadrants s = .next t)) ∧
      ((∃ i < 8 / 2 ^ l.toNat, ∃ j < 8 / 2 ^ l.toNat,
          countOf s.cfg leafTable (blockPattern s.bitmap (x.toNat + 2 * i) (y.toNat + 2 * j)) = 0) →
        ∃ v : Nat, exec (.eleaf x y l) s = .next { s with
          v := v, draws := s.draws + 1, err := true, cause := some .divideByZero, info := encode (.eleaf x y l) })) ∧
    (l = 3 → actsAs (.eleaf x y l) s [.push 4 (BitVec.ofNat 8 (blockPattern s.bitmap x.toNat y.toNat))] s) ∧
    (l ≠ 3 → actsAs (.eleaf x y l) s quadrants s)

/-- ERG on an encode-complete ROM with V unbounded completes, writing V only. On any ROM, with any capacity: a white region
pushes S_EMPTY; a region that is not white and whose every aligned 2×2 block holds a black pixel is ELEAF and then S_FILL; any
other region is ERG on the quadrants BR, BL, TR, TL and then S_SPLIT, and is never a 2×2 block; a fault of one of these is ERG's
fault (R196, R197, R198, R202, R203, R272; the state after a fault is free, logs 6 and 7). -/
def Obligations.ErgClassifiesItsRegion : Prop :=
  ∀ (x y : Byte) (l : BitVec 2) (s : State), s.err = false → (Instr.erg x y l).wellFormed = true →
    let h : Byte := BitVec.ofNat 8 (8 / 2 ^ l.toNat)
    let white := ∀ i < 16 / 2 ^ l.toNat, ∀ j < 16 / 2 ^ l.toNat,
      pixelAt s.bitmap (x.toNat + i) (y.toNat + j) = false
    let black := ∀ i < 8 / 2 ^ l.toNat, ∀ j < 8 / 2 ^ l.toNat,
      blockPattern s.bitmap (x.toNat + 2 * i) (y.toNat + 2 * j) ≠ 0
    let split : List Instr :=
      [.erg (x + h) (y + h) (l + 1), .erg x (y + h) (l + 1), .erg (x + h) y (l + 1), .erg x y (l + 1),
        .push (l.setWidth 8) 2]
    (encodeComplete s.cfg → s.cfg.vcap = none →
      ∃ t, exec (.erg x y l) s = .next t ∧ t = { s with v := t.v } ∧
        (white → exec (.push (l.setWidth 8) 0) s = .next t) ∧
        (¬ white → black → presentAll [.eleaf x y l, .push (l.setWidth 8) 1] s = .next t) ∧
        (¬ white → ¬ black → l ≠ 3 ∧ presentAll split s = .next t)) ∧
    (white → actsAs (.erg x y l) s [.push (l.setWidth 8) 0] s) ∧
    (¬ white → black → actsAs (.erg x y l) s [.eleaf x y l, .push (l.setWidth 8) 1] s) ∧
    (¬ white → ¬ black → l ≠ 3 ∧ actsAs (.erg x y l) s split s)

/-- Encoding a region and decoding it onto a bitmap white there restores V and the region's pixels, and touches nothing outside
the region; the same for ELEAF and DLEAF on a region whose patterns all have a count, onto any bitmap (R204). -/
def Obligations.RegionRoundTrip : Prop :=
  ∀ (x y : Byte) (l : BitVec 2) (s : State) (b : Bitmap), s.err = false → (Instr.erg x y l).wellFormed = true →
    romWellFormed s.cfg → s.cfg.vcap = none →
    let inside := fun i j : Nat =>
      x.toNat ≤ i ∧ i < x.toNat + 16 / 2 ^ l.toNat ∧ y.toNat ≤ j ∧ j < y.toNat + 16 / 2 ^ l.toNat
    (encodeComplete s.cfg → (∀ i j, inside i j → pixelAt b i j = false) →
      ∃ s1 t, exec (.erg x y l) s = .next s1 ∧ exec (.drg x y l) { s1 with bitmap := b } = .next t ∧
        t.err = false ∧ t.v = s.v ∧ (∀ i j, inside i j → pixelAt t.bitmap i j = pixelAt s.bitmap i j) ∧
        ∀ i j, ¬ inside i j → pixelAt t.bitmap i j = pixelAt b i j) ∧
    ((∀ i < 8 / 2 ^ l.toNat, ∀ j < 8 / 2 ^ l.toNat,
        countOf s.cfg leafTable (blockPattern s.bitmap (x.toNat + 2 * i) (y.toNat + 2 * j)) ≠ 0) →
      ∃ s1 t, exec (.eleaf x y l) s = .next s1 ∧ exec (.dleaf x y l) { s1 with bitmap := b } = .next t ∧
        t.err = false ∧ t.v = s.v ∧ (∀ i j, inside i j → pixelAt t.bitmap i j = pixelAt s.bitmap i j) ∧
        ∀ i j, ¬ inside i j → pixelAt t.bitmap i j = pixelAt b i j)

/-! ### The filter (spec/45_filter.md) -/

/-- The window is causal and inside the grid and visited column by column, its size and the bound of the context are `nbits`, the
context is the visited pixels as binary digits, the first the most significant, a full window has the weights of the table, and
the class is three times the row bucket plus the column bucket (R216 to R219). -/
def Obligations.FilterContextAndClass : Prop :=
  (∀ y < 48, ∀ x < 48, (window x y).length = contextBits x y ∧
    ((window x y).Pairwise fun p q => p.1 < q.1 ∨ (p.1 = q.1 ∧ p.2 < q.2)) ∧
    ∀ p ∈ window x y, p.1 < 48 ∧ p.2 < 48 ∧ p.2 * 48 + p.1 < y * 48 + x ∧
      x ≤ p.1 + 2 ∧ p.1 ≤ x + 2 ∧ y ≤ p.2 + 2 ∧ p.2 ≤ y) ∧
  (∀ (src : Bitmap) (x y : Nat), x < 48 → y < 48 → context src x y < 2 ^ contextBits x y ∧
    context src x y = Nat.ofDigits 2 ((window x y).reverse.map fun p => (pixelAt src p.1 p.2).toNat)) ∧
  (∀ (src : Bitmap) (x y : Nat), x < 44 → y < 46 → context src (x + 2) (y + 2) =
    2048 * (pixelAt src x y).toNat + 1024 * (pixelAt src x (y + 1)).toNat + 512 * (pixelAt src x (y + 2)).toNat +
    256 * (pixelAt src (x + 1) y).toNat + 128 * (pixelAt src (x + 1) (y + 1)).toNat +
    64 * (pixelAt src (x + 1) (y + 2)).toNat + 32 * (pixelAt src (x + 2) y).toNat +
    16 * (pixelAt src (x + 2) (y + 1)).toNat + 8 * (pixelAt src (x + 3) y).toNat +
    4 * (pixelAt src (x + 3) (y + 1)).toNat + 2 * (pixelAt src (x + 4) y).toNat +
    (pixelAt src (x + 4) (y + 1)).toNat) ∧
  (∀ y < 48, ∀ x < 48, positionClass x y < 12 ∧
    positionClass x y = 3 * min y 3 + (if x ≤ 2 then 0 else if x = 47 then 2 else 1))

/-- The predicted bit: with the index the context plus the offset of the position class, MODEL_FAULT when it is not below FT_BITS,
else that entry of FTAB (R220). FENC: every output pixel is the pixel as it was, xored with the prediction from the bitmap as it
was, and only the bitmap is written; it completes for every bitmap on a filter-complete ROM. If a filter index is out of range,
MODEL_FAULT with the bitmap free (R221, R265, R272; logs 6 and 7). -/
def Obligations.FencXorsPredictionFromOriginal : Prop :=
  encode .fenc = 0x50000000#32 ∧
  (∀ (cfg : Config) (src : Bitmap), ∀ y < 48, ∀ x < 48, ∃ off, cfg.foff[positionClass x y]? = some off ∧
    (cfg.ftBits ≤ context src x y + off → predict cfg src x y = .error .modelFault) ∧
    (context src x y + off < cfg.ftBits → predict cfg src x y = .ok (cfg.ftab.getLsbD (context src x y + off)))) ∧
  ∀ s : State,
    (filterComplete s.cfg → ∀ y < 48, ∀ x < 48, ∃ p, predict s.cfg s.bitmap x y = .ok p) ∧
    ((∀ y < 48, ∀ x < 48, ∃ p, predict s.cfg s.bitmap x y = .ok p) →
      ∃ b : Bitmap, exec .fenc s = .next { s with bitmap := b } ∧
        ∀ y < 48, ∀ x < 48, ∃ p, predict s.cfg s.bitmap x y = .ok p ∧ pixelAt b x y = (pixelAt s.bitmap x y ^^ p)) ∧
    ((∃ x y, x < 48 ∧ y < 48 ∧ predict s.cfg s.bitmap x y = .error .modelFault) →
      ∃ b : Bitmap, exec .fenc s = .next { s with
        bitmap := b, draws := s.draws + 1, err := true, cause := some .modelFault, info := 0x50000000#32 })

/-- FDEC, on a filter-complete ROM: every output pixel is the pixel as it was, xored with the prediction from the restored
bitmap, and only the bitmap is written; on any ROM it ends in the bitmap that is restored so, when there is one (R222). If, with
every earlier pixel restored, the filter index of a pixel is out of range, MODEL_FAULT with the bitmap free (R220, R265, R272;
logs 6 and 7). -/
def Obligations.FdecXorsPredictionFromRestored : Prop :=
  encode .fdec = 0x51000000#32 ∧ ∀ s : State,
    let restored := fun (b : Bitmap) (i : Nat) =>
      ∃ p, predict s.cfg b (i % 48) (i / 48) = .ok p ∧ pixel b i = (pixel s.bitmap i ^^ p)
    (filterComplete s.cfg →
      ∃ b : Bitmap, exec .fdec s = .next { s with bitmap := b } ∧
        ∀ y < 48, ∀ x < 48, ∃ p, predict s.cfg b x y = .ok p ∧ pixelAt b x y = (pixelAt s.bitmap x y ^^ p)) ∧
    (∀ b : Bitmap, (∀ i < 2304, restored b i) → exec .fdec s = .next { s with bitmap := b }) ∧
    ∀ (b : Bitmap) (n : Nat), n < 2304 → (∀ i < n, restored b i) →
      predict s.cfg b (n % 48) (n / 48) = .error .modelFault →
      ∃ b' : Bitmap, exec .fdec s = .next { s with
        bitmap := b', draws := s.draws + 1, err := true, cause := some .modelFault, info := 0x51000000#32 }

/-- The two passes are inverse to each other, in either order, for every filter-complete ROM and every bitmap (R223). -/
def Obligations.FilterPassesAreInverse : Prop :=
  ∀ s : State, s.err = false → filterComplete s.cfg →
    presentAll [.fenc, .fdec] s = .next s ∧ presentAll [.fdec, .fenc] s = .next s

/-! ### Orchestration (spec/46_orchestration.md) -/

/-- DEC completes for every V on a well-formed, filter-complete ROM without a split at level 3, writes V, R and the bitmap only,
and is BCLR, the nine DRGs in order and FDEC (R237, R238, R244). On any ROM it does what those commands do, their fault included
(R237, R272; the state after a fault is free, logs 6 and 7). -/
def Obligations.DecCompletesAsItsComponents : Prop :=
  encode .dec = 0x60000000#32 ∧ ∀ s : State, s.err = false →
    (romWellFormed s.cfg → filterComplete s.cfg → noDeepSplit s.cfg →
      ∃ t, exec .dec s = .next t ∧ t = { s with v := t.v, r := t.r, bitmap := t.bitmap } ∧
        presentAll decodeComponents s = .next t) ∧
    actsAs .dec s decodeComponents s

/-- ENC 48, 48 completes for every bitmap on a well-formed, filter-complete, encode-complete ROM with the capacities of R321, leaves
V = 0, writes V, R, the bitmap and a non-empty text only, and is FENC, VCLR, the nine ERGs in reverse order and TXOUT
(R239, R240, R244, R321). On any ROM, with any capacities, it does what those commands do, their fault included (R239, R272; the
state after a fault is free, logs 6 and 7). -/
def Obligations.EncCompletesAsItsComponents : Prop :=
  ∀ s : State, s.err = false →
    (romWellFormed s.cfg → filterComplete s.cfg → encodeComplete s.cfg → capacitySuffices s.cfg →
      ∃ t, exec (.enc 48 48) s = .next t ∧ t = { s with v := 0, r := t.r, bitmap := t.bitmap, text := t.text } ∧
        1 ≤ t.text.length ∧ t.text.length ≤ 1637 ∧ presentAll encodeComponents s = .next t) ∧
    actsAs (.enc 48 48) s encodeComponents s

/-- The word of ENC for every operand; declared with a size other than 48 by 48 it is DIMENSION_ERROR, before any other effect
(R239, R263). -/
def Obligations.EncRejectsOtherDimensions : Prop :=
  ∀ (w h : Byte) (s : State),
    encode (.enc w h) = BitVec.ofNat 32 (0x61000000 + w.toNat * 65536 + h.toNat * 256) ∧
    (w.toNat ≠ 48 ∨ h.toNat ≠ 48 →
      exec (.enc w h) s = .next { s with
        err := true, cause := some .dimensionError,
        info := BitVec.ofNat 32 (0x61000000 + w.toNat * 65536 + h.toNat * 256) })

/-- Encoding an image, loading its text and decoding it restores the image and leaves V = 0 (R241). -/
def Obligations.ImageRoundTrip : Prop :=
  ∀ s : State, s.err = false → romWellFormed s.cfg → filterComplete s.cfg → encodeComplete s.cfg →
    capacitySuffices s.cfg →
    ∃ s1 s2, presentAll [.enc 48 48] s = .next s1 ∧ presentAll (decodeRecipe s1.text) s1 = .next s2 ∧
      s2.bitmap = s.bitmap ∧ s2.v = 0 ∧ s2.err = false

/-- HDR: the size word 0x3030 to R when NE is set, whatever the text; FORMAT_ERROR, precise, when it is not (R243). -/
def Obligations.HdrAnswersNonEmptyText : Prop :=
  encode .hdr = 0x62000000#32 ∧ ∀ s : State,
    (s.ne = true → exec .hdr s = .next { s with r := 0x3030#16 }) ∧
    (s.ne = false → exec .hdr s = .next { s with err := true, cause := some .formatError, info := 0x62000000#32 })

/-! ### System commands (spec/47_system.md) -/

/-- NOP writes nothing; ECLR clears ERR, CAUSE and INFO only; SRST clears every register and the text and leaves the bitmap;
ECLR and SRST are accepted whether or not a fault is recorded (R250, R251, R252). -/
def Obligations.SystemCommandsNopEclrSrst : Prop :=
  encode .nop = 0x00000000#32 ∧ encode .eclr = 0x70000000#32 ∧ encode .srst = 0x71000000#32 ∧ ∀ s : State,
    exec .nop s = .next s ∧ exec .eclr s = .next { s with err := false, cause := none, info := 0 } ∧
    exec .srst s = .next { s with
      v := 0, r := 0, ptr := 0, text := [], err := false, ne := false, cause := none, info := 0 } ∧
    present 0x00000000#32 s = .next s ∧ present 0x70000000#32 s = exec .eclr s ∧ present 0x71000000#32 s = exec .srst s
end

