-- ==== Sys2Proof/Laws/State.lean ====
section
/-! SUPPORT. One lemma for each field of each named update of State, so that no later proof unfolds the update. -/

namespace Sys2Proof.Machine

/-! ### `raise` (R270) -/

@[simp] theorem raise_v (c : FaultCause) (w : Command) (s : State) : (raise c w s).v = s.v := rfl
@[simp] theorem raise_r (c : FaultCause) (w : Command) (s : State) : (raise c w s).r = s.r := rfl
@[simp] theorem raise_ptr (c : FaultCause) (w : Command) (s : State) : (raise c w s).ptr = s.ptr := rfl
@[simp] theorem raise_bitmap (c : FaultCause) (w : Command) (s : State) : (raise c w s).bitmap = s.bitmap := rfl
@[simp] theorem raise_text (c : FaultCause) (w : Command) (s : State) : (raise c w s).text = s.text := rfl
@[simp] theorem raise_err (c : FaultCause) (w : Command) (s : State) : (raise c w s).err = true := rfl
@[simp] theorem raise_ne (c : FaultCause) (w : Command) (s : State) : (raise c w s).ne = s.ne := rfl
@[simp] theorem raise_cause (c : FaultCause) (w : Command) (s : State) : (raise c w s).cause = some c := rfl
@[simp] theorem raise_info (c : FaultCause) (w : Command) (s : State) : (raise c w s).info = w := rfl
@[simp] theorem raise_cfg (c : FaultCause) (w : Command) (s : State) : (raise c w s).cfg = s.cfg := rfl
@[simp] theorem raise_moves (c : FaultCause) (w : Command) (s : State) : (raise c w s).moves = s.moves := rfl
@[simp] theorem raise_readData (c : FaultCause) (w : Command) (s : State) : (raise c w s).readData = s.readData := rfl
@[simp] theorem raise_draws (c : FaultCause) (w : Command) (s : State) : (raise c w s).draws = s.draws := rfl

/-! ### `clearFault` (R251) -/

@[simp] theorem clearFault_v (s : State) : (clearFault s).v = s.v := rfl
@[simp] theorem clearFault_r (s : State) : (clearFault s).r = s.r := rfl
@[simp] theorem clearFault_ptr (s : State) : (clearFault s).ptr = s.ptr := rfl
@[simp] theorem clearFault_bitmap (s : State) : (clearFault s).bitmap = s.bitmap := rfl
@[simp] theorem clearFault_text (s : State) : (clearFault s).text = s.text := rfl
@[simp] theorem clearFault_err (s : State) : (clearFault s).err = false := rfl
@[simp] theorem clearFault_ne (s : State) : (clearFault s).ne = s.ne := rfl
@[simp] theorem clearFault_cause (s : State) : (clearFault s).cause = none := rfl
@[simp] theorem clearFault_info (s : State) : (clearFault s).info = 0 := rfl
@[simp] theorem clearFault_cfg (s : State) : (clearFault s).cfg = s.cfg := rfl
@[simp] theorem clearFault_moves (s : State) : (clearFault s).moves = s.moves := rfl
@[simp] theorem clearFault_readData (s : State) : (clearFault s).readData = s.readData := rfl
@[simp] theorem clearFault_draws (s : State) : (clearFault s).draws = s.draws := rfl

/-! ### `scramble` (R272) -/

@[simp] theorem scramble_v (f : Footprint) (s : State) : (scramble f s).v = (if f.v then drawV s.cfg s.draws else s.v) := rfl
@[simp] theorem scramble_r (f : Footprint) (s : State) : (scramble f s).r = (if f.r then Config.freeR s.draws else s.r) := rfl
@[simp] theorem scramble_ptr (f : Footprint) (s : State) : (scramble f s).ptr = s.ptr := rfl
@[simp] theorem scramble_bitmap (f : Footprint) (s : State) : (scramble f s).bitmap = (if f.bitmap then Config.freeBitmap s.draws else s.bitmap) := rfl
@[simp] theorem scramble_text (f : Footprint) (s : State) : (scramble f s).text = (if f.text then drawText s.cfg s.draws else s.text) := rfl
@[simp] theorem scramble_err (f : Footprint) (s : State) : (scramble f s).err = s.err := rfl
@[simp] theorem scramble_ne (f : Footprint) (s : State) : (scramble f s).ne = s.ne := rfl
@[simp] theorem scramble_cause (f : Footprint) (s : State) : (scramble f s).cause = s.cause := rfl
@[simp] theorem scramble_info (f : Footprint) (s : State) : (scramble f s).info = s.info := rfl
@[simp] theorem scramble_cfg (f : Footprint) (s : State) : (scramble f s).cfg = s.cfg := rfl
@[simp] theorem scramble_moves (f : Footprint) (s : State) : (scramble f s).moves = s.moves := rfl
@[simp] theorem scramble_readData (f : Footprint) (s : State) : (scramble f s).readData = s.readData := rfl
@[simp] theorem scramble_draws (f : Footprint) (s : State) : (scramble f s).draws = s.draws + 1 := rfl

/-! ### `softReset` (R252) -/

@[simp] theorem softReset_v (s : State) : (softReset s).v = 0 := rfl
@[simp] theorem softReset_r (s : State) : (softReset s).r = 0 := rfl
@[simp] theorem softReset_ptr (s : State) : (softReset s).ptr = 0 := rfl
@[simp] theorem softReset_bitmap (s : State) : (softReset s).bitmap = s.bitmap := rfl
@[simp] theorem softReset_text (s : State) : (softReset s).text = [] := rfl
@[simp] theorem softReset_err (s : State) : (softReset s).err = false := rfl
@[simp] theorem softReset_ne (s : State) : (softReset s).ne = false := rfl
@[simp] theorem softReset_cause (s : State) : (softReset s).cause = none := rfl
@[simp] theorem softReset_info (s : State) : (softReset s).info = 0 := rfl
@[simp] theorem softReset_cfg (s : State) : (softReset s).cfg = s.cfg := rfl
@[simp] theorem softReset_moves (s : State) : (softReset s).moves = s.moves := rfl
@[simp] theorem softReset_readData (s : State) : (softReset s).readData = s.readData := rfl
@[simp] theorem softReset_draws (s : State) : (softReset s).draws = s.draws := rfl

/-! ### `hardReset` (R300) -/

@[simp] theorem hardReset_v (s : State) : (hardReset s).v = 0 := rfl
@[simp] theorem hardReset_r (s : State) : (hardReset s).r = 0 := rfl
@[simp] theorem hardReset_ptr (s : State) : (hardReset s).ptr = 0 := rfl
@[simp] theorem hardReset_bitmap (s : State) : (hardReset s).bitmap = Config.freeBitmap s.draws := rfl
@[simp] theorem hardReset_text (s : State) : (hardReset s).text = [] := rfl
@[simp] theorem hardReset_err (s : State) : (hardReset s).err = false := rfl
@[simp] theorem hardReset_ne (s : State) : (hardReset s).ne = false := rfl
@[simp] theorem hardReset_cause (s : State) : (hardReset s).cause = none := rfl
@[simp] theorem hardReset_info (s : State) : (hardReset s).info = 0 := rfl
@[simp] theorem hardReset_cfg (s : State) : (hardReset s).cfg = s.cfg := rfl
@[simp] theorem hardReset_moves (s : State) : (hardReset s).moves = s.moves := rfl
@[simp] theorem hardReset_readData (s : State) : (hardReset s).readData = s.readData := rfl
@[simp] theorem hardReset_draws (s : State) : (hardReset s).draws = s.draws + 1 := rfl

/-! ### `streamPixel` (R174) -/

@[simp] theorem streamPixel_v (p : Bool) (s : State) : (streamPixel p s).v = s.v := rfl
@[simp] theorem streamPixel_r (p : Bool) (s : State) : (streamPixel p s).r = s.r := rfl
@[simp] theorem streamPixel_ptr (p : Bool) (s : State) : (streamPixel p s).ptr = advancePtr s.ptr := rfl
@[simp] theorem streamPixel_bitmap (p : Bool) (s : State) : (streamPixel p s).bitmap = setPixel s.bitmap s.ptr.toNat p := rfl
@[simp] theorem streamPixel_text (p : Bool) (s : State) : (streamPixel p s).text = s.text := rfl
@[simp] theorem streamPixel_err (p : Bool) (s : State) : (streamPixel p s).err = s.err := rfl
@[simp] theorem streamPixel_ne (p : Bool) (s : State) : (streamPixel p s).ne = s.ne := rfl
@[simp] theorem streamPixel_cause (p : Bool) (s : State) : (streamPixel p s).cause = s.cause := rfl
@[simp] theorem streamPixel_info (p : Bool) (s : State) : (streamPixel p s).info = s.info := rfl
@[simp] theorem streamPixel_cfg (p : Bool) (s : State) : (streamPixel p s).cfg = s.cfg := rfl
@[simp] theorem streamPixel_moves (p : Bool) (s : State) : (streamPixel p s).moves = s.moves := rfl
@[simp] theorem streamPixel_readData (p : Bool) (s : State) : (streamPixel p s).readData = s.readData := rfl
@[simp] theorem streamPixel_draws (p : Bool) (s : State) : (streamPixel p s).draws = s.draws := rfl

/-! ### `clearBitmap` (R173) -/

@[simp] theorem clearBitmap_v (s : State) : (clearBitmap s).v = s.v := rfl
@[simp] theorem clearBitmap_r (s : State) : (clearBitmap s).r = s.r := rfl
@[simp] theorem clearBitmap_ptr (s : State) : (clearBitmap s).ptr = s.ptr := rfl
@[simp] theorem clearBitmap_bitmap (s : State) : (clearBitmap s).bitmap = whiteBitmap := rfl
@[simp] theorem clearBitmap_text (s : State) : (clearBitmap s).text = s.text := rfl
@[simp] theorem clearBitmap_err (s : State) : (clearBitmap s).err = s.err := rfl
@[simp] theorem clearBitmap_ne (s : State) : (clearBitmap s).ne = s.ne := rfl
@[simp] theorem clearBitmap_cause (s : State) : (clearBitmap s).cause = s.cause := rfl
@[simp] theorem clearBitmap_info (s : State) : (clearBitmap s).info = s.info := rfl
@[simp] theorem clearBitmap_cfg (s : State) : (clearBitmap s).cfg = s.cfg := rfl
@[simp] theorem clearBitmap_moves (s : State) : (clearBitmap s).moves = s.moves := rfl
@[simp] theorem clearBitmap_readData (s : State) : (clearBitmap s).readData = s.readData := rfl
@[simp] theorem clearBitmap_draws (s : State) : (clearBitmap s).draws = s.draws := rfl

/-! ### `txrev` (R159) -/

@[simp] theorem txrev_v (s : State) : (txrev s).v = s.v := rfl
@[simp] theorem txrev_r (s : State) : (txrev s).r = s.r := rfl
@[simp] theorem txrev_ptr (s : State) : (txrev s).ptr = s.ptr := rfl
@[simp] theorem txrev_bitmap (s : State) : (txrev s).bitmap = s.bitmap := rfl
@[simp] theorem txrev_text (s : State) : (txrev s).text = s.text.reverse := rfl
@[simp] theorem txrev_err (s : State) : (txrev s).err = s.err := rfl
@[simp] theorem txrev_ne (s : State) : (txrev s).ne = s.ne := rfl
@[simp] theorem txrev_cause (s : State) : (txrev s).cause = s.cause := rfl
@[simp] theorem txrev_info (s : State) : (txrev s).info = s.info := rfl
@[simp] theorem txrev_cfg (s : State) : (txrev s).cfg = s.cfg := rfl
@[simp] theorem txrev_moves (s : State) : (txrev s).moves = s.moves := rfl
@[simp] theorem txrev_readData (s : State) : (txrev s).readData = s.readData := rfl
@[simp] theorem txrev_draws (s : State) : (txrev s).draws = s.draws := rfl

end Sys2Proof.Machine
end

