-- ==== Sys2Proof/Laws/Memory.lean ====
section
/-! SUPPORT. The laws of the two memories: reading a pixel after a write, one form for equal bitmaps, and the text buffer kept
within its capacity by every operation on it. -/

namespace Sys2Proof.Machine

theorem writeCell_getLsbD (r : BitVec 48) {x : Nat} (hx : x < 48) (v : Bool) (j : Nat) :
    (writeCell r x v).getLsbD j = if j = x then v else r.getLsbD j := by
  unfold writeCell
  by_cases hj : j = x
  · subst hj
    cases v <;> simp [hx]
  · have hxj : x ≠ j := fun h => hj h.symm
    cases v
    · by_cases hj48 : j < 48
      · simp [hj, hj48]
      · have := BitVec.getLsbD_of_ge r j (by omega)
        simp [hj, this]
    · simp [hj, hxj]

theorem pixelAt_of_lt (b : Bitmap) {x y : Nat} (hy : y < 48) : pixelAt b x y = (b[y]).getLsbD x := by
  simp [pixelAt, hy]

/-- Outside the grid every place reads white (log 13). -/
theorem pixelAt_outside (b : Bitmap) {x y : Nat} (h : 48 ≤ x ∨ 48 ≤ y) : pixelAt b x y = false := by
  unfold pixelAt
  by_cases hx : 48 ≤ x
  · exact BitVec.getLsbD_of_ge _ _ hx
  · have hy : ¬ y < 48 := by omega
    simp [hy]

/-- Reading a pixel after a write inside the grid (R12). -/
theorem pixelAt_setPixelAt (b : Bitmap) {x y : Nat} (hx : x < 48) (hy : y < 48) (v : Bool) (x' y' : Nat) :
    pixelAt (setPixelAt b x y v) x' y' = if x' = x ∧ y' = y then v else pixelAt b x' y' := by
  by_cases hy' : y' < 48
  · rw [pixelAt_of_lt _ hy', pixelAt_of_lt _ hy']
    unfold setPixelAt
    rw [Vector.getElem_setIfInBounds]
    by_cases hyy : y = y'
    · subst hyy
      simp [hy, writeCell_getLsbD _ hx]
    · have : ¬ y' = y := fun h => hyy h.symm
      simp [hyy, this]
  · have hne : ¬ (x' = x ∧ y' = y) := by omega
    rw [pixelAt_outside _ (Or.inr (by omega)), pixelAt_outside b (Or.inr (by omega)), if_neg hne]

/-- Reading `B[j]` after a write to `B[i]` (R12). -/
theorem pixel_setPixel (b : Bitmap) {i : Nat} (hi : i < 2304) (v : Bool) (j : Nat) :
    pixel (setPixel b i v) j = if j = i then v else pixel b j := by
  unfold pixel setPixel
  rw [pixelAt_setPixelAt b (by omega) (by omega)]
  by_cases h : j = i
  · simp [h]
  · have : ¬ (j % 48 = i % 48 ∧ j / 48 = i / 48) := by omega
    simp [h, this]

/-- The pixel (x, y) is the pixel of its raster index (R50). -/
theorem pixel_rasterIndex (b : Bitmap) {x : Nat} (hx : x < 48) (y : Nat) : pixel b (rasterIndex x y) = pixelAt b x y := by
  unfold pixel rasterIndex
  have h1 : (y * 48 + x) % 48 = x := by omega
  have h2 : (y * 48 + x) / 48 = y := by omega
  rw [h1, h2]

/-- A bitmap has one form: two bitmaps that read the same everywhere in the grid are equal. -/
theorem bitmap_ext {a b : Bitmap} (h : ∀ y < 48, ∀ x < 48, pixelAt a x y = pixelAt b x y) : a = b := by
  apply Vector.ext
  intro y hy
  apply BitVec.eq_of_getLsbD_eq
  intro x hx
  have := h y hy x hx
  rwa [pixelAt_of_lt _ hy, pixelAt_of_lt _ hy] at this

/-- The same by raster index. -/
theorem bitmap_ext_pixel {a b : Bitmap} (h : ∀ i < 2304, pixel a i = pixel b i) : a = b := by
  apply bitmap_ext
  intro y hy x hx
  have := h (rasterIndex x y) (by unfold rasterIndex; omega)
  rwa [pixel_rasterIndex _ hx, pixel_rasterIndex _ hx] at this

@[simp] theorem pixelAt_whiteBitmap (x y : Nat) : pixelAt whiteBitmap x y = false := by
  by_cases hy : y < 48
  · rw [pixelAt_of_lt _ hy]; simp [whiteBitmap]
  · exact pixelAt_outside _ (Or.inr (by omega))

@[simp] theorem pixel_whiteBitmap (i : Nat) : pixel whiteBitmap i = false := pixelAt_whiteBitmap _ _

/-! ### The text buffer stays within its capacity -/

theorem memoryWf_iff (s : State) : Memory.wf s = true ↔ ∀ k, s.cfg.tcap = some k → s.text.length ≤ k := by
  unfold Memory.wf State.tlen
  cases s.cfg.tcap <;> simp

theorem memoryWf_of_text {s t : State} (hc : t.cfg = s.cfg) (ht : t.text.length ≤ s.text.length) (h : Memory.wf s = true) :
    Memory.wf t = true := by
  rw [memoryWf_iff] at *
  intro k hk
  exact le_trans ht (h k (hc ▸ hk))

theorem raise_memoryWf (c : FaultCause) (w : Command) {s : State} (h : Memory.wf s = true) :
    Memory.wf (raise c w s) = true := h

theorem clearFault_memoryWf {s : State} (h : Memory.wf s = true) : Memory.wf (clearFault s) = true := h

theorem streamPixel_memoryWf (p : Bool) {s : State} (h : Memory.wf s = true) : Memory.wf (streamPixel p s) = true := h

theorem clearBitmap_memoryWf {s : State} (h : Memory.wf s = true) : Memory.wf (clearBitmap s) = true := h

theorem txrev_memoryWf {s : State} (h : Memory.wf s = true) : Memory.wf (txrev s) = true :=
  memoryWf_of_text (s := s) rfl (by simp) h

theorem softReset_memoryWf (s : State) : Memory.wf (softReset s) = true := by
  rw [memoryWf_iff]; simp

theorem hardReset_memoryWf (s : State) : Memory.wf (hardReset s) = true := by
  rw [memoryWf_iff]; simp

theorem reset_memoryWf : Memory.wf State.reset = true := by
  rw [memoryWf_iff]; simp [State.reset]

theorem scramble_memoryWf (f : Footprint) {s : State} (h : Memory.wf s = true) : Memory.wf (scramble f s) = true := by
  rw [memoryWf_iff] at *
  intro k hk
  have hk' : s.cfg.tcap = some k := hk
  simp only [scramble_text]
  split
  · simp only [drawText, hk', List.length_take]
    exact Nat.min_le_left _ _
  · exact h k hk'

theorem txdig_memoryWf {s t : State} (ht : txdig s = .ok t) : Memory.wf t = true := by
  unfold txdig at ht
  split at ht
  · rename_i hroom
    cases ht
    rw [memoryWf_iff] at *
    intro k hk
    have hk' : s.cfg.tcap = some k := hk
    have hroom : s.text.length < k := by
      simp only [textHasRoom, hk', State.tlen] at hroom
      exact of_decide_eq_true hroom
    simp only [List.length_append, List.length_singleton]
    omega
  · cases ht

end Sys2Proof.Machine
end

