-- ==== Sys2Proof/Laws/Ops.lean ====
section
/-! SUPPORT. For each shared operation, one lemma that says once everything it can do; later proofs cite it instead of unfolding
the operation. -/

namespace Sys2Proof.Machine

/-- Sequencing two procedures succeeds exactly when both do. -/
theorem bind_eq_ok {α β : Type} {x : Except FaultCause α} {f : α → Except FaultCause β} {b : β} :
    (x >>= f) = .ok b ↔ ∃ a, x = .ok a ∧ f a = .ok b := by
  cases x with
  | error e => simp [bind, Except.bind]
  | ok a => simp [bind, Except.bind]

/-- Sequencing two procedures faults exactly when the first does, or the second after it. -/
theorem bind_eq_error {α β : Type} {x : Except FaultCause α} {f : α → Except FaultCause β} {e : FaultCause} :
    (x >>= f) = .error e ↔ x = .error e ∨ ∃ a, x = .ok a ∧ f a = .error e := by
  cases x with
  | error e' => simp [bind, Except.bind]
  | ok a => simp [bind, Except.bind]

/-! ### The ends of a command -/

/-- Everything `settle` can do (R271). -/
theorem settle_cases (w : Command) (p : Proc) (s : State) :
    (∃ t, p s = .ok t ∧ settle w p s = t) ∨ ∃ c, p s = .error c ∧ settle w p s = raise c w s := by
  unfold settle
  cases h : p s with
  | ok t => exact .inl ⟨t, rfl, rfl⟩
  | error c => exact .inr ⟨c, rfl, rfl⟩

/-- Everything `settleMacro` can do (R272). -/
theorem settleMacro_cases (w : Command) (f : Footprint) (p : Proc) (s : State) :
    (∃ t, p s = .ok t ∧ settleMacro w f p s = t) ∨
      ∃ c, p s = .error c ∧ settleMacro w f p s = raise c w (scramble f s) := by
  unfold settleMacro
  cases h : p s with
  | ok t => exact .inl ⟨t, rfl, rfl⟩
  | error c => exact .inr ⟨c, rfl, rfl⟩

theorem settle_of_ok {w : Command} {p : Proc} {s t : State} (h : p s = .ok t) : settle w p s = t := by
  simp [settle, h]

theorem settle_of_error {w : Command} {p : Proc} {s : State} {c : FaultCause} (h : p s = .error c) :
    settle w p s = raise c w s := by simp [settle, h]

theorem settleMacro_of_ok {w : Command} {f : Footprint} {p : Proc} {s t : State} (h : p s = .ok t) :
    settleMacro w f p s = t := by simp [settleMacro, h]

theorem settleMacro_of_error {w : Command} {f : Footprint} {p : Proc} {s : State} {c : FaultCause} (h : p s = .error c) :
    settleMacro w f p s = raise c w (scramble f s) := by simp [settleMacro, h]

theorem checked_of_wellFormed {i : Instr} {body : State → State} {s : State} (h : i.wellFormed = true) :
    checked i body s = body s := by simp [checked, h]

theorem checked_of_not_wellFormed {i : Instr} {body : State → State} {s : State} (h : i.wellFormed = false) :
    checked i body s = raise .illegalCommand (encode i) s := by simp [checked, h]

/-! ### V -/

theorem fitsV_iff (cfg : Config) (v : Nat) : fitsV cfg v = true ↔ ∀ k, cfg.vcap = some k → v < 2 ^ k := by
  unfold fitsV
  cases cfg.vcap <;> simp

/-- A value below one that fits, fits. -/
theorem fitsV_mono {cfg : Config} {a b : Nat} (hab : a ≤ b) (h : fitsV cfg b = true) : fitsV cfg a = true := by
  rw [fitsV_iff] at *
  exact fun k hk => lt_of_le_of_lt hab (h k hk)

/-- A drawn value of V is one the capacity allows (R272). -/
theorem drawV_fits (cfg : Config) (n : Nat) : fitsV cfg (drawV cfg n) = true := by
  rw [fitsV_iff]
  intro k hk
  simp only [drawV, hk]
  exact Nat.mod_lt _ (by positivity)

/-- Everything `writeV` can do (R123). -/
theorem writeV_ok {v : Nat} {s t : State} : writeV v s = .ok t ↔ fitsV s.cfg v = true ∧ t = { s with v := v } := by
  unfold writeV
  split
  · rename_i h; simp [h, eq_comm]
  · rename_i h; simp [h]

theorem writeV_error {v : Nat} {s : State} {c : FaultCause} :
    writeV v s = .error c ↔ fitsV s.cfg v = false ∧ c = .capacityFault := by
  unfold writeV
  split
  · rename_i h; simp [h]
  · rename_i h; simp [h, eq_comm]

/-- Everything `divideV` can do (R128). -/
theorem divideV_ok {d : Nat} {s t : State} :
    divideV d s = .ok t ↔ d ≠ 0 ∧ t = { s with v := s.v / d, r := BitVec.ofNat 16 (s.v % d) } := by
  unfold divideV
  split
  · rename_i h; simp [h]
  · rename_i h; simp [h, eq_comm]

/-! ### The symbol coder -/

theorem rowContains_iff (row : RomRow) (n : Nat) :
    rowContains row n = true ↔ row.base.val ≤ n ∧ n < row.base.val + row.count.val := by
  simp [rowContains]

/-- What the scan finds: the first row that contains n (R141). -/
theorem scanRows_some {n r k : Nat} {rows : List RomRow} {row : RomRow} (h : scanRows n r rows = some (k, row)) :
    r ≤ k ∧ rows[k - r]? = some row ∧ rowContains row n = true ∧
      ∀ j < k - r, ∀ row', rows[j]? = some row' → rowContains row' n = false := by
  induction rows generalizing r with
  | nil => simp [scanRows] at h
  | cons a rows ih =>
    unfold scanRows at h
    split at h
    · rename_i hc
      simp only [Option.some.injEq, Prod.mk.injEq] at h
      obtain ⟨rfl, rfl⟩ := h
      simp [hc]
    · rename_i hc
      obtain ⟨hle, hrow, hcon, hfirst⟩ := ih h
      have hk : k - r = (k - (r + 1)) + 1 := by omega
      refine ⟨by omega, ?_, hcon, ?_⟩
      · rw [hk]; simpa using hrow
      · intro j hj row' hrow'
        cases j with
        | zero =>
          simp only [List.getElem?_cons_zero, Option.some.injEq] at hrow'
          subst hrow'
          simpa using hc
        | succ j =>
          simp only [List.getElem?_cons_succ] at hrow'
          exact hfirst j (by omega) row' hrow'

/-- The scan fails exactly when no row contains n (R141). -/
theorem scanRows_none {n r : Nat} {rows : List RomRow} :
    scanRows n r rows = none ↔ ∀ row ∈ rows, rowContains row n = false := by
  induction rows generalizing r with
  | nil => simp [scanRows]
  | cons a rows ih =>
    unfold scanRows
    split
    · rename_i hc; simp [hc]
    · rename_i hc; simp [hc, ih]

/-- Everything `pop` can do when it completes (R141). -/
theorem pop_ok {t : Nat} {s s' : State} (h : pop t s = .ok s') :
    ∃ (r : Nat) (row : RomRow), (tableRows s.cfg t)[r]? = some row ∧ rowContains row (s.v % 256) = true ∧
      (∀ j < r, ∀ row', (tableRows s.cfg t)[j]? = some row' → rowContains row' (s.v % 256) = false) ∧
      s' = { s with
        v := s.v / 256 * row.count.val + (s.v % 256 - row.base.val), r := BitVec.ofNat 16 r } := by
  unfold pop at h
  cases hs : scanRows (s.v % 256) 0 (tableRows s.cfg t) with
  | none => simp [hs] at h
  | some found =>
    obtain ⟨r, row⟩ := found
    simp only [hs, Except.ok.injEq] at h
    obtain ⟨-, hrow, hcon, hfirst⟩ := scanRows_some hs
    exact ⟨r, row, by simpa using hrow, hcon, by simpa using hfirst, h.symm⟩

/-- `pop` faults only with MODEL_FAULT, exactly when no row contains the slot (R141, R142). -/
theorem pop_error {t : Nat} {s : State} {c : FaultCause} :
    pop t s = .error c ↔ c = .modelFault ∧ ∀ row ∈ tableRows s.cfg t, rowContains row (s.v % 256) = false := by
  unfold pop
  cases hs : scanRows (s.v % 256) 0 (tableRows s.cfg t) with
  | none =>
    have := scanRows_none.mp hs
    constructor
    · intro h; simp only [hs, Except.error.injEq] at h; exact ⟨h.symm, this⟩
    · rintro ⟨rfl, -⟩; simp [hs]
  | some found =>
    have : ¬ ∀ row ∈ tableRows s.cfg t, rowContains row (s.v % 256) = false :=
      fun h => by rw [scanRows_none.mpr h] at hs; cases hs
    simp [hs, this]

/-- POP never grows V, whatever the ROM (R123). -/
theorem pop_le {t : Nat} {s s' : State} (h : pop t s = .ok s') : s'.v ≤ s.v := by
  obtain ⟨r, row, -, -, -, rfl⟩ := pop_ok h
  have hc : row.count.val ≤ 256 := by omega
  have h1 : s.v / 256 * row.count.val ≤ s.v / 256 * 256 := Nat.mul_le_mul_left _ hc
  have h2 := Nat.div_add_mod s.v 256
  show s.v / 256 * row.count.val + (s.v % 256 - row.base.val) ≤ s.v
  omega

/-- Everything `push` can do when it completes (R143). -/
theorem push_ok {t r : Nat} {s s' : State} (h : push t r s = .ok s') :
    ∃ row, (tableRows s.cfg t)[r]? = some row ∧ row.count.val ≠ 0 ∧
      fitsV s.cfg (s.v / row.count.val * 256 + (s.v % row.count.val + row.base.val)) = true ∧
      s' = { s with v := s.v / row.count.val * 256 + (s.v % row.count.val + row.base.val) } := by
  unfold push at h
  cases hr : (tableRows s.cfg t)[r]? with
  | none => simp [hr] at h
  | some row =>
    simp only [hr] at h
    split at h
    · cases h
    · rename_i hc
      obtain ⟨hf, rfl⟩ := writeV_ok.mp h
      exact ⟨row, rfl, hc, hf, rfl⟩

/-! ### Text -/

/-- Everything `txdig` can do when it completes (R158). -/
theorem txdig_ok {s t : State} :
    txdig s = .ok t ↔ textHasRoom s = true ∧
      t = { s with
        v := s.v / 94, text := s.text ++ [digitCharacter (s.v % 94)], r := BitVec.ofNat 16 (s.v % 94) } := by
  unfold txdig
  split
  · rename_i h; simp [h, eq_comm]
  · rename_i h; simp [h]

theorem txdig_error {s : State} {c : FaultCause} :
    txdig s = .error c ↔ textHasRoom s = false ∧ c = .capacityFault := by
  unfold txdig
  split
  · rename_i h; simp [h]
  · rename_i h; simp [h, eq_comm]

/-- Everything `foldCharacter` can do when it completes (R153). -/
theorem foldCharacter_ok {ch : Byte} {s t : State} :
    foldCharacter ch s = .ok t ↔
      (isDataCharacter ch = true ∧ fitsV s.cfg (s.v * 94 + (ch.toNat - 33)) = true ∧
        t = { s with v := s.v * 94 + (ch.toNat - 33), ne := true }) ∨
      (isDataCharacter ch = false ∧ t = { s with ne := true }) := by
  unfold foldCharacter
  split
  · rename_i h
    simp only [bind_eq_ok, writeV_ok, mulAdd, h, true_and, Bool.true_eq_false, false_and, or_false]
    constructor
    · rintro ⟨a, ⟨hf, rfl⟩, hb⟩; cases hb; exact ⟨hf, rfl⟩
    · rintro ⟨hf, rfl⟩; exact ⟨_, ⟨hf, rfl⟩, rfl⟩
  · rename_i h
    have hd : isDataCharacter ch = false := by simpa using h
    constructor
    · intro hb; cases hb; exact .inr ⟨hd, rfl⟩
    · rintro (⟨h', -⟩ | ⟨-, rfl⟩)
      · exact absurd h' h
      · rfl

/-- Everything `readText` can do (R162). -/
theorem readText_ok {i : Nat} {s t : State} :
    readText i s = .ok t ↔ ∃ c, s.text[i]? = some c ∧ t = { s with r := c.setWidth 16 } := by
  unfold readText
  cases s.text[i]? with
  | none => simp
  | some c => simp [eq_comm]

/-- The digit loop writes V, R and T only. -/
theorem digitLoop_frame {fuel : Nat} {s t : State} (h : digitLoop fuel s = .ok t) :
    t = { s with v := t.v, r := t.r, text := t.text } := by
  induction fuel generalizing s with
  | zero => cases h; rfl
  | succ n ih =>
    unfold digitLoop at h
    split at h
    · cases h; rfl
    · obtain ⟨a, ha, hb⟩ := bind_eq_ok.mp h
      obtain ⟨-, rfl⟩ := txdig_ok.mp ha
      rw [ih hb]

/-- `log2 V + 1` rounds extract every digit: the loop of R160 ends with V = 0. -/
theorem digitLoop_zero {fuel : Nat} {s t : State} (hv : s.v < 2 ^ fuel) (h : digitLoop fuel s = .ok t) : t.v = 0 := by
  induction fuel generalizing s with
  | zero => cases h; simpa using hv
  | succ n ih =>
    unfold digitLoop at h
    split at h
    · rename_i h0; cases h; exact h0
    · obtain ⟨a, ha, hb⟩ := bind_eq_ok.mp h
      obtain ⟨-, rfl⟩ := txdig_ok.mp ha
      refine ih ?_ hb
      show s.v / 94 < 2 ^ n
      rw [pow_succ] at hv
      omega

/-! ### The quad-tree engine -/

/-- `decode_leaf` writes V, R and the bitmap only (R193). -/
theorem decodeLeaf_frame {k x y : Nat} {s t : State} (h : decodeLeaf k x y s = .ok t) :
    t = { s with v := t.v, r := t.r, bitmap := t.bitmap } := by
  induction k generalizing x y s t with
  | zero =>
    obtain ⟨a, ha, hb⟩ := bind_eq_ok.mp h
    obtain ⟨r, row, -, -, -, rfl⟩ := pop_ok ha
    cases hb; rfl
  | succ k ih =>
    obtain ⟨a, ha, h⟩ := bind_eq_ok.mp h
    obtain ⟨b, hb, h⟩ := bind_eq_ok.mp h
    obtain ⟨c, hc, h⟩ := bind_eq_ok.mp h
    rw [ih h, ih hc, ih hb, ih ha]

/-- `decode_region` writes V, R and the bitmap only (R195). -/
theorem decodeRegion_frame {k x y : Nat} {s t : State} (h : decodeRegion k x y s = .ok t) :
    t = { s with v := t.v, r := t.r, bitmap := t.bitmap } := by
  induction k generalizing x y s t with
  | zero =>
    obtain ⟨a, ha, hb⟩ := bind_eq_ok.mp h
    obtain ⟨r, row, -, -, -, rfl⟩ := pop_ok ha
    dsimp only at hb
    split at hb
    · cases hb; rfl
    · split at hb
      · rw [decodeLeaf_frame hb]
      · cases hb
  | succ k ih =>
    obtain ⟨a, ha, hb⟩ := bind_eq_ok.mp h
    obtain ⟨r, row, -, -, -, rfl⟩ := pop_ok ha
    dsimp only at hb
    split at hb
    · cases hb; rfl
    · split at hb
      · rw [decodeLeaf_frame hb]
      · obtain ⟨a, ha, h⟩ := bind_eq_ok.mp hb
        obtain ⟨b, hb, h⟩ := bind_eq_ok.mp h
        obtain ⟨c, hc, h⟩ := bind_eq_ok.mp h
        rw [ih h, ih hc, ih hb, ih ha]

theorem push_frame {t r : Nat} {s s' : State} (h : push t r s = .ok s') : s' = { s with v := s'.v } := by
  obtain ⟨row, -, -, -, rfl⟩ := push_ok h; rfl

/-- `encode_leaf` writes V only (R201). -/
theorem encodeLeaf_frame {k x y : Nat} {s t : State} (h : encodeLeaf k x y s = .ok t) : t = { s with v := t.v } := by
  induction k generalizing x y s t with
  | zero => exact push_frame h
  | succ k ih =>
    obtain ⟨a, ha, h⟩ := bind_eq_ok.mp h
    obtain ⟨b, hb, h⟩ := bind_eq_ok.mp h
    obtain ⟨c, hc, h⟩ := bind_eq_ok.mp h
    rw [ih h, ih hc, ih hb, ih ha]

/-- `encode_region` writes V only (R203). -/
theorem encodeRegion_frame {k x y : Nat} {s t : State} (h : encodeRegion k x y s = .ok t) : t = { s with v := t.v } := by
  induction k generalizing x y s t with
  | zero =>
    unfold encodeRegion at h
    split at h
    · exact push_frame h
    · obtain ⟨a, ha, hb⟩ := bind_eq_ok.mp h
      rw [push_frame hb, encodeLeaf_frame ha]
  | succ k ih =>
    unfold encodeRegion at h
    split at h
    · exact push_frame h
    · split at h
      · obtain ⟨a, ha, hb⟩ := bind_eq_ok.mp h
        rw [push_frame hb, encodeLeaf_frame ha]
      · obtain ⟨a, ha, h⟩ := bind_eq_ok.mp h
        obtain ⟨b, hb, h⟩ := bind_eq_ok.mp h
        obtain ⟨c, hc, h⟩ := bind_eq_ok.mp h
        obtain ⟨d, hd, h⟩ := bind_eq_ok.mp h
        rw [push_frame h, ih hd, ih hc, ih hb, ih ha]

/-! ### The filter -/

/-- Everything `filterPixel` can do when it completes (R221, R222). -/
theorem filterPixel_ok {cfg : Config} {src dst b : Bitmap} {i : Nat} :
    filterPixel cfg src dst i = .ok b ↔
      ∃ p, predict cfg src (i % 48) (i / 48) = .ok p ∧ b = setPixel dst i (pixel src i ^^ p) := by
  unfold filterPixel
  rw [bind_eq_ok]
  constructor
  · rintro ⟨p, hp, hb⟩; cases hb; exact ⟨p, hp, rfl⟩
  · rintro ⟨p, hp, rfl⟩; exact ⟨p, hp, rfl⟩

/-- `filter_enc` writes the bitmap only (R225). -/
theorem filterEnc_frame {s t : State} (h : filterEnc s = .ok t) : t = { s with bitmap := t.bitmap } := by
  obtain ⟨b, -, hb⟩ := bind_eq_ok.mp h
  cases hb; rfl

/-- `filter_dec` writes the bitmap only (R225). -/
theorem filterDec_frame {s t : State} (h : filterDec s = .ok t) : t = { s with bitmap := t.bitmap } := by
  obtain ⟨b, -, hb⟩ := bind_eq_ok.mp h
  cases hb; rfl

end Sys2Proof.Machine
end

