-- ==== Sys2Proof/Laws/PerInstr.lean ====
section
/-! SUPPORT. The per-instruction family EncodingRow: the word of every command is selected by that command's row of
spec/30_encoding.md R94, `(W and mask) = match`, whatever its operands. -/

namespace Sys2Proof.Laws

/-- A packed word under a row's mask, byte by byte. -/
theorem packWord_and (op a b c mop ma mb mc : Byte) :
    packWord op a b c &&& packWord mop ma mb mc = packWord (op &&& mop) (a &&& ma) (b &&& mb) (c &&& mc) := by
  show (op ++ a ++ b ++ c : BitVec (8 + 8 + 8 + 8)) &&& (mop ++ ma ++ mb ++ mc) = _
  rw [BitVec.and_append, BitVec.and_append, BitVec.and_append]
  rfl

/-- A word with a 16-bit immediate is a word of four bytes (R90). -/
theorem packImm_eq (op : Byte) (imm : BitVec 16) (c : Byte) :
    packImm op imm c = packWord op (imm.extractLsb' 8 8) (imm.extractLsb' 0 8) c := by
  apply BitVec.eq_of_getLsbD_eq
  intro i hi
  simp only [packImm, packWord, BitVec.getLsbD_append, BitVec.getLsbD_extractLsb']
  by_cases h1 : i < 8
  · simp [h1]
  · by_cases h2 : i < 16
    · have h3 : i - 8 < 8 := by omega
      have h4 : i - 8 < 16 := by omega
      simp [h1, h3, h4]
    · by_cases h5 : i < 24
      · have h3 : ¬ i - 8 < 8 := by omega
        have h4 : i - 8 < 16 := by omega
        have h6 : i - 8 - 8 < 8 := by omega
        have h7 : 8 + (i - 8 - 8) = i - 8 := by omega
        simp [h1, h3, h4, h6, h7]
      · have h3 : ¬ i - 8 < 8 := by omega
        have h4 : ¬ i - 8 < 16 := by omega
        have h6 : ¬ i - 8 - 8 < 8 := by omega
        have h7 : i - 8 - 16 = i - 8 - 8 - 8 := by omega
        simp [h1, h3, h4, h6, h7]

/-- The statement of the family: the command's own word selects its row. -/
def EncodingRow.Statement (i : Instr) : Prop := i.selectedBy (encode i) = true

theorem EncodingRow.nop : EncodingRow.Statement (.nop) := by
  rfl

theorem EncodingRow.vclr : EncodingRow.Statement (.vclr) := by
  rfl

theorem EncodingRow.vmad (m : BitVec 16) (add : Byte) : EncodingRow.Statement (.vmad m add) := by
  have hm : 0xFF000000#32 = packWord 0xFF#8 0x00#8 0x00#8 0x00#8 := by decide
  simp only [EncodingRow.Statement, Instr.selectedBy, Instr.tableRow, encode, packImm_eq, hm, packWord_and,
    BitVec.and_zero]
  decide

theorem EncodingRow.vdiv (d : BitVec 16) : EncodingRow.Statement (.vdiv d) := by
  have hm : 0xFF0000FF#32 = packWord 0xFF#8 0x00#8 0x00#8 0xFF#8 := by decide
  simp only [EncodingRow.Statement, Instr.selectedBy, Instr.tableRow, encode, packImm_eq, hm, packWord_and,
    BitVec.and_zero]
  decide

theorem EncodingRow.vrd (i : BitVec 16) : EncodingRow.Statement (.vrd i) := by
  have hm : 0xFF0000FF#32 = packWord 0xFF#8 0x00#8 0x00#8 0xFF#8 := by decide
  simp only [EncodingRow.Statement, Instr.selectedBy, Instr.tableRow, encode, packImm_eq, hm, packWord_and,
    BitVec.and_zero]
  decide

theorem EncodingRow.pop (t : Byte) : EncodingRow.Statement (.pop t) := by
  have hm : 0xFF00FFFF#32 = packWord 0xFF#8 0x00#8 0xFF#8 0xFF#8 := by decide
  simp only [EncodingRow.Statement, Instr.selectedBy, Instr.tableRow, encode, hm, packWord_and,
    BitVec.and_zero]
  decide

theorem EncodingRow.push (t r : Byte) : EncodingRow.Statement (.push t r) := by
  have hm : 0xFF0000FF#32 = packWord 0xFF#8 0x00#8 0x00#8 0xFF#8 := by decide
  simp only [EncodingRow.Statement, Instr.selectedBy, Instr.tableRow, encode, hm, packWord_and,
    BitVec.and_zero]
  decide

theorem EncodingRow.txbeg : EncodingRow.Statement (.txbeg) := by
  rfl

theorem EncodingRow.txin (ch : Byte) : EncodingRow.Statement (.txin ch) := by
  have hm : 0xFFFFFF00#32 = packWord 0xFF#8 0xFF#8 0xFF#8 0x00#8 := by decide
  simp only [EncodingRow.Statement, Instr.selectedBy, Instr.tableRow, encode, hm, packWord_and,
    BitVec.and_zero]
  decide

theorem EncodingRow.txdig : EncodingRow.Statement (.txdig) := by
  rfl

theorem EncodingRow.txrev : EncodingRow.Statement (.txrev) := by
  rfl

theorem EncodingRow.txout : EncodingRow.Statement (.txout) := by
  rfl

theorem EncodingRow.trd (i : BitVec 16) : EncodingRow.Statement (.trd i) := by
  have hm : 0xFF0000FF#32 = packWord 0xFF#8 0x00#8 0x00#8 0xFF#8 := by decide
  simp only [EncodingRow.Statement, Instr.selectedBy, Instr.tableRow, encode, packImm_eq, hm, packWord_and,
    BitVec.and_zero]
  decide

theorem EncodingRow.bclr : EncodingRow.Statement (.bclr) := by
  rfl

theorem EncodingRow.bptr (x y : Byte) : EncodingRow.Statement (.bptr x y) := by
  have hm : 0xFF0000FF#32 = packWord 0xFF#8 0x00#8 0x00#8 0xFF#8 := by decide
  simp only [EncodingRow.Statement, Instr.selectedBy, Instr.tableRow, encode, hm, packWord_and,
    BitVec.and_zero]
  decide

theorem EncodingRow.bbit (v : BitVec 1) : EncodingRow.Statement (.bbit v) := by
  have hm : 0xFFFFFFFE#32 = packWord 0xFF#8 0xFF#8 0xFF#8 0xFE#8 := by decide
  have hv : v.setWidth 8 &&& 0xFE#8 = 0#8 := by revert v; decide
  simp only [EncodingRow.Statement, Instr.selectedBy, Instr.tableRow, encode, hm, packWord_and, hv]
  decide

theorem EncodingRow.brgb (red green blue : Byte) : EncodingRow.Statement (.brgb red green blue) := by
  have hm : 0xFF000000#32 = packWord 0xFF#8 0x00#8 0x00#8 0x00#8 := by decide
  simp only [EncodingRow.Statement, Instr.selectedBy, Instr.tableRow, encode, hm, packWord_and,
    BitVec.and_zero]
  decide

theorem EncodingRow.brd : EncodingRow.Statement (.brd) := by
  rfl

theorem EncodingRow.bset (x y : Byte) (v : BitVec 1) : EncodingRow.Statement (.bset x y v) := by
  have hm : 0xFF0000FE#32 = packWord 0xFF#8 0x00#8 0x00#8 0xFE#8 := by decide
  have hv : v.setWidth 8 &&& 0xFE#8 = 0#8 := by revert v; decide
  simp only [EncodingRow.Statement, Instr.selectedBy, Instr.tableRow, encode, hm, packWord_and, hv,
    BitVec.and_zero]
  decide

theorem EncodingRow.bget (x y : Byte) : EncodingRow.Statement (.bget x y) := by
  have hm : 0xFF0000FF#32 = packWord 0xFF#8 0x00#8 0x00#8 0xFF#8 := by decide
  simp only [EncodingRow.Statement, Instr.selectedBy, Instr.tableRow, encode, hm, packWord_and,
    BitVec.and_zero]
  decide

theorem EncodingRow.dleaf (x y : Byte) (l : BitVec 2) : EncodingRow.Statement (.dleaf x y l) := by
  have hm : 0xFF0000FC#32 = packWord 0xFF#8 0x00#8 0x00#8 0xFC#8 := by decide
  have hl : l.setWidth 8 &&& 0xFC#8 = 0#8 := by revert l; decide
  simp only [EncodingRow.Statement, Instr.selectedBy, Instr.tableRow, encode, hm, packWord_and, hl,
    BitVec.and_zero]
  decide

theorem EncodingRow.drg (x y : Byte) (l : BitVec 2) : EncodingRow.Statement (.drg x y l) := by
  have hm : 0xFF0000FC#32 = packWord 0xFF#8 0x00#8 0x00#8 0xFC#8 := by decide
  have hl : l.setWidth 8 &&& 0xFC#8 = 0#8 := by revert l; decide
  simp only [EncodingRow.Statement, Instr.selectedBy, Instr.tableRow, encode, hm, packWord_and, hl,
    BitVec.and_zero]
  decide

theorem EncodingRow.eleaf (x y : Byte) (l : BitVec 2) : EncodingRow.Statement (.eleaf x y l) := by
  have hm : 0xFF0000FC#32 = packWord 0xFF#8 0x00#8 0x00#8 0xFC#8 := by decide
  have hl : l.setWidth 8 &&& 0xFC#8 = 0#8 := by revert l; decide
  simp only [EncodingRow.Statement, Instr.selectedBy, Instr.tableRow, encode, hm, packWord_and, hl,
    BitVec.and_zero]
  decide

theorem EncodingRow.erg (x y : Byte) (l : BitVec 2) : EncodingRow.Statement (.erg x y l) := by
  have hm : 0xFF0000FC#32 = packWord 0xFF#8 0x00#8 0x00#8 0xFC#8 := by decide
  have hl : l.setWidth 8 &&& 0xFC#8 = 0#8 := by revert l; decide
  simp only [EncodingRow.Statement, Instr.selectedBy, Instr.tableRow, encode, hm, packWord_and, hl,
    BitVec.and_zero]
  decide

theorem EncodingRow.fenc : EncodingRow.Statement (.fenc) := by
  rfl

theorem EncodingRow.fdec : EncodingRow.Statement (.fdec) := by
  rfl

theorem EncodingRow.dec : EncodingRow.Statement (.dec) := by
  rfl

theorem EncodingRow.enc (w h : Byte) : EncodingRow.Statement (.enc w h) := by
  have hm : 0xFF0000FF#32 = packWord 0xFF#8 0x00#8 0x00#8 0xFF#8 := by decide
  simp only [EncodingRow.Statement, Instr.selectedBy, Instr.tableRow, encode, hm, packWord_and,
    BitVec.and_zero]
  decide

theorem EncodingRow.hdr : EncodingRow.Statement (.hdr) := by
  rfl

theorem EncodingRow.eclr : EncodingRow.Statement (.eclr) := by
  rfl

theorem EncodingRow.srst : EncodingRow.Statement (.srst) := by
  rfl

end Sys2Proof.Laws
end

