-- ==== Sys2Proof/Laws/Sequence.lean ====
section
/-! SUPPORT. The laws of commands presented one after another (`presentAll`), and how a macro command's ending gives `actsAs` and
`faultsInside`, so that no later proof unfolds them. -/

namespace Sys2Proof.Machine

@[simp] theorem presentAll_nil (s : State) : presentAll [] s = .next s := rfl

/-- One command taken, then the rest. -/
theorem presentAll_cons {i : Instr} {rest : List Instr} {s t : State} (h : present (encode i) s = .next t) :
    presentAll (i :: rest) s = presentAll rest t := by
  simp [presentAll, h]

/-- Two sequences, one after the other. -/
theorem presentAll_append {first rest : List Instr} {s t : State} (h : presentAll first s = .next t) :
    presentAll (first ++ rest) s = presentAll rest t := by
  induction first generalizing s with
  | nil => cases h; rfl
  | cons i first ih =>
    cases hp : present (encode i) s with
    | next u =>
      rw [presentAll_cons hp] at h
      rw [List.cons_append, presentAll_cons hp, ih h]
    | fault f => exact nomatch f
    | refused r => simp [presentAll, hp] at h

/-- A macro command that faults inside, its footprint within what the command may write. -/
theorem faultsInside_of_settleMacro {i : Instr} {f : Footprint} {p : Proc} {s : State} {c : FaultCause}
    (hexec : exec i s = .next (settleMacro (encode i) f p s)) (h : p s = .error c)
    (hv : f.v = true → writesV i = true) (hr : f.r = true → writesR i = true)
    (hb : f.bitmap = true → writesBitmap i = true) (ht : f.text = true → writesText i = true) :
    faultsInside i s c := by
  refine ⟨(scramble f s).v, (scramble f s).r, (scramble f s).bitmap, (scramble f s).text, ?_, ?_, ?_, ?_, ?_⟩
  · rw [hexec, settleMacro_of_error h]; rfl
  all_goals intro hw; simp only [scramble]; split <;> simp_all

/-- A macro command does what a sequence does: given the sequence's end, the macro's own end in both cases. -/
theorem actsAs_of_next {i : Instr} {s s1 u : State} {parts : List Instr} (h : presentAll parts s1 = .next u)
    (hok : u.err = false → exec i s = .next u)
    (hfault : u.err = true → ∃ c, u.cause = some c ∧ faultsInside i s c) : actsAs i s parts s1 :=
  ⟨u, h, hok, hfault⟩

end Sys2Proof.Machine
end

