-- ==== Sys2Proof/Machine/Assembler.lean ====
section
/-! DEFINITION. The assembler syntax (spec/30_encoding.md R100) and the pseudo-commands by name (R101): a line of text to the
commands it stands for. Details the rule does not fix (spaces, which letters a hexadecimal digit may be) are log 18. -/

namespace Sys2Proof.Machine

/-- A token of a line. -/
inductive Token where
  /-- A mnemonic or a number, as written. -/
  | word (w : List Char)
  /-- A character in single quotes: its code. -/
  | quoted (code : Nat)
  /-- A string in double quotes. -/
  | text (s : List Char)
  | comma
deriving DecidableEq, Repr

/-- What the lexer is in the middle of. -/
inductive LexMode where
  | between
  | inWord (soFar : List Char)
  | inText (soFar : List Char)
deriving DecidableEq, Repr

/-- The token a finished word makes. -/
def closeWord : LexMode → List Token
  | .inWord w => [.word w.reverse]
  | .between | .inText _ => []

/-- The tokens of a line; a `;` outside quotes starts a comment (R100); inside a string `\"` is a quote. -/
def lexLine : LexMode → List Char → Option (List Token)
  | .inText _, [] => none
  | mode, [] => some (closeWord mode)
  | .inText t, '\\' :: '"' :: rest => lexLine (.inText ('"' :: t)) rest
  | .inText t, '"' :: rest => (lexLine .between rest).map fun ts => .text t.reverse :: ts
  | .inText t, c :: rest => lexLine (.inText (c :: t)) rest
  | mode, ';' :: _ => some (closeWord mode)
  | mode, ',' :: rest => (lexLine .between rest).map fun ts => closeWord mode ++ .comma :: ts
  | mode, ' ' :: rest => (lexLine .between rest).map fun ts => closeWord mode ++ ts
  | .between, '\'' :: c :: '\'' :: rest =>
    if 32 ≤ c.toNat ∧ c.toNat ≤ 126 then (lexLine .between rest).map fun ts => .quoted c.toNat :: ts else none
  | .between, '"' :: rest => lexLine (.inText []) rest
  | .between, c :: rest => if c.isAlphanum then lexLine (.inWord [c]) rest else none
  | .inWord w, c :: rest => if c.isAlphanum then lexLine (.inWord (c :: w)) rest else none

/-- The value of a decimal digit. -/
def decimalDigit (c : Char) : Option Nat := if c.isDigit then some (c.toNat - 48) else none

/-- The value of a hexadecimal digit, either case. -/
def hexDigit (c : Char) : Option Nat :=
  if c.isDigit then some (c.toNat - 48)
  else if 65 ≤ c.toNat ∧ c.toNat ≤ 70 then some (c.toNat - 55)
  else if 97 ≤ c.toNat ∧ c.toNat ≤ 102 then some (c.toNat - 87)
  else none

/-- The number a string of digits writes in a radix. -/
def digitsValue (radix : Nat) (digit : Char → Option Nat) (cs : List Char) : Option Nat :=
  if cs.isEmpty then none
  else cs.foldlM (fun v c => (digit c).map fun d => v * radix + d) 0

/-- A number: decimal, or hexadecimal with `0x` (R100). -/
def parseNumber : List Char → Option Nat
  | '0' :: 'x' :: cs => digitsValue 16 hexDigit cs
  | cs => digitsValue 10 decimalDigit cs

/-- One operand: a number or a quoted character. -/
def parseOperand : Token → Option Nat
  | .word w => parseNumber w
  | .quoted n => some n
  | .text _ | .comma => none

/-- Operands separated by commas (R100). -/
def parseOperands : List Token → Option (List Nat)
  | [] => some []
  | [t] => (parseOperand t).map fun n => [n]
  | t :: .comma :: rest =>
    match parseOperand t, rest with
    | some n, _ :: _ => (parseOperands rest).map fun ns => n :: ns
    | _, _ => none
  | _ :: _ :: _ => none

/-- The bytes of a string, one TXIN each (R101); a character above 255 is no byte. -/
def stringBytes (cs : List Char) : Option (List Byte) :=
  cs.mapM fun c => if c.toNat < 256 then some (BitVec.ofNat 8 c.toNat) else none

/-- An operand that fits its field. -/
def field (w n : Nat) : Option (BitVec w) := if n < 2 ^ w then some (BitVec.ofNat w n) else none

/-- A top-level region number, 0..8 (R101). -/
def regionNumber (n : Nat) : Option (Fin 9) := if h : n < 9 then some ⟨n, h⟩ else none

/-- A mnemonic with its operands: the commands it stands for (R94, R101). -/
def assembleCommand (mnemonic : String) (operands : List Nat) : Option (List Instr) :=
  match mnemonic, operands with
  | "NOP", [] => some [.nop]
  | "VCLR", [] => some [.vclr]
  | "VMAD", [m, k] => do some [.vmad (← field 16 m) (← field 8 k)]
  | "VDIV", [d] => do some [.vdiv (← field 16 d)]
  | "VRD", [i] => do some [.vrd (← field 16 i)]
  | "POP", [t] => do some [.pop (← field 8 t)]
  | "PUSH", [t, r] => do some [.push (← field 8 t) (← field 8 r)]
  | "TXBEG", [] => some [.txbeg]
  | "TXIN", [c] => do some [.txin (← field 8 c)]
  | "TXDIG", [] => some [.txdig]
  | "TXREV", [] => some [.txrev]
  | "TXOUT", [] => some [.txout]
  | "TRD", [i] => do some [.trd (← field 16 i)]
  | "BCLR", [] => some [.bclr]
  | "BPTR", [x, y] => do some [.bptr (← field 8 x) (← field 8 y)]
  | "BBIT", [v] => do some [.bbit (← field 1 v)]
  | "BRGB", [r, g, b] => do some [.brgb (← field 8 r) (← field 8 g) (← field 8 b)]
  | "BRD", [] => some [.brd]
  | "BSET", [x, y, v] => do some [.bset (← field 8 x) (← field 8 y) (← field 1 v)]
  | "BGET", [x, y] => do some [.bget (← field 8 x) (← field 8 y)]
  | "DLEAF", [x, y, l] => do some [.dleaf (← field 8 x) (← field 8 y) (← field 2 l)]
  | "DRG", [x, y, l] => do some [.drg (← field 8 x) (← field 8 y) (← field 2 l)]
  | "ELEAF", [x, y, l] => do some [.eleaf (← field 8 x) (← field 8 y) (← field 2 l)]
  | "ERG", [x, y, l] => do some [.erg (← field 8 x) (← field 8 y) (← field 2 l)]
  | "FENC", [] => some [.fenc]
  | "FDEC", [] => some [.fdec]
  | "DEC", [] => some [.dec]
  | "ENC", [w, h] => do some [.enc (← field 8 w) (← field 8 h)]
  | "HDR", [] => some [.hdr]
  | "ECLR", [] => some [.eclr]
  | "SRST", [] => some [.srst]
  | "VMUL", [m] => do some (expandPseudo (.vmul (← field 16 m)))
  | "VADD", [k] => do some (expandPseudo (.vadd (← field 8 k)))
  | "VSET", [k] => do some (expandPseudo (.vset (← field 8 k)))
  | "DTOP", [k] => do some (expandPseudo (.dtop (← regionNumber k)))
  | "ETOP", [k] => do some (expandPseudo (.etop (← regionNumber k)))
  | "BWHITE", [] => some (expandPseudo .bwhite)
  | "BBLACK", [] => some (expandPseudo .bblack)
  | _, _ => none

/-- The commands of a tokenised line: none for an empty line, a string operand for TXSTR only (R100, R101). -/
def assembleTokens : List Token → Option (List Instr)
  | [] => some []
  | [.word w, .text s] =>
    if String.ofList w = "TXSTR" then (stringBytes s).map fun bytes => expandPseudo (.txstr bytes) else none
  | .word w :: rest => do assembleCommand (String.ofList w) (← parseOperands rest)
  | _ => none

/-- One line of assembly, to the commands it stands for (R100). -/
def assembleLine (line : List Char) : Option (List Instr) := do assembleTokens (← lexLine .between line)

/-- One line of assembly, to command words. -/
def assembleWords (line : List Char) : Option (List Command) := (assembleLine line).map fun is => is.map encode

end Sys2Proof.Machine
end

