-- ==== Sys2Proof/Tests/Slice0.lean ====
section
/-! SUPPORT. The model's own tests. The expected results are the derived vectors of spec/95_test_vectors.md (the name after the
test's statement says which) or are written out from the rule named; a `witness` shows a concrete state and operands that meet
all hypotheses of a statement, or of one clause of it, together. -/

namespace Sys2Proof.Tests

open Sys2Proof.Machine

-- one theorem after another: checked at the same time, they reserve more stack than the check allows
set_option Elab.async false

/-! ### Small states -/

/-- As after SRST with a white bitmap, on a configuration. -/
def start (cfg : Config) : State where
  v := 0
  r := 0
  ptr := 0
  bitmap := whiteBitmap
  text := []
  err := false
  ne := false
  cause := none
  info := 0
  cfg := cfg
  moves := []
  readData := 0
  draws := 1

/-- CFG-A, CFG-S (VCAP 16, TCAP 2), CFG-F512, CFG-GAP and CFG-SPL3 of spec/95_test_vectors.md section 1. -/
abbrev cfgA : Config := Config.reference
def cfgS : Config := { Config.reference with vcap := some 16, tcap := some 2 }
def cfgF512 : Config := { Config.reference with ftBits := 512, ftab := 0 }
def cfgGap : Config := { Config.reference with
  lvl := Config.reference.lvl.set 0 #v[romRow 4 251, romRow 1 255, romRow 250 0] }
def cfgSpl3 : Config := { Config.reference with
  lvl := Config.reference.lvl.set 3 #v[romRow 125 131, romRow 100 31, romRow 31 0] }
/-- ROM-P: entry i of the table is the parity of i; `parityTable k` is its first `2^k` entries. -/
def parityTable : Nat → Nat
  | 0 => 0
  | k + 1 => parityTable k + (2 ^ (2 ^ k) - 1 - parityTable k) * 2 ^ (2 ^ k)
/-- CFG-B. -/
def cfgB : Config := { Config.reference with ftab := BitVec.ofNat 4096 (parityTable 12) }

def stA : State := start cfgA
def stS : State := start cfgS

/-- A state with some pixels black. -/
def black (s : State) (ps : List (Nat × Nat)) : State :=
  { s with bitmap := ps.foldl (fun b p => setPixelAt b p.1 p.2 true) s.bitmap }

/-- What a view of the state shows after the host presents a word and the machine takes one step. -/
def after {α : Type} (w : Nat) (s : State) (view : State → α) : Option α :=
  match step (s.withFetchWord 32 w) with
  | .next t => some (view t)
  | .fault _ => none
  | .refused _ => none

/-- V and R. -/
def vr (s : State) : Nat × BitVec 16 := (s.v, s.r)
/-- CAUSE and INFO. -/
def trap (s : State) : Option FaultCause × Command := (s.cause, s.info)

/-! ### Well-formedness: one ill-formed term for each check, with its well-formed neighbour (R93) -/

theorem test_wf_selector : (Instr.pop 5).violation = some .tableSelector ∧ (Instr.pop 4).wellFormed = true ∧
    (Instr.push 5 0).violation = some .tableSelector := by decide
theorem test_wf_row : (Instr.push 0 3).violation = some .rowNumber ∧ (Instr.push 0 2).wellFormed = true ∧
    (Instr.push 4 16).violation = some .rowNumber ∧ (Instr.push 4 15).wellFormed = true := by decide
theorem test_wf_coordinate : (Instr.bptr 48 0).violation = some .coordinate ∧ (Instr.bptr 47 47).wellFormed = true ∧
    (Instr.bset 0 48 1).violation = some .coordinate ∧ (Instr.bget 48 48).violation = some .coordinate := by decide
theorem test_wf_region : (Instr.dleaf 47 46 3).violation = some .region ∧ (Instr.dleaf 46 46 3).wellFormed = true ∧
    (Instr.drg 40 40 0).violation = some .region ∧ (Instr.eleaf 4 0 1).violation = some .region ∧
    (Instr.erg 32 48 0).violation = some .region ∧ (Instr.drg 40 40 1).wellFormed = true := by decide

/-! ### Decoding: a word of every constructor, written out from the encoding (spec/95_test_vectors.md section 3) -/

theorem test_decode_apu : decode 0x01000000#32 = .ok .vclr ∧ decode 0x02005E02#32 = .ok (.vmad 94 2) ∧
    decode 0x02FFFFFF#32 = .ok (.vmad 65535 255) ∧ decode 0x03010000#32 = .ok (.vdiv 256) ∧
    decode 0x04000100#32 = .ok (.vrd 1) := by decide
theorem test_decode_coder : decode 0x10040000#32 = .ok (.pop 4) ∧ decode 0x11040F00#32 = .ok (.push 4 15) ∧
    decode 0x11000200#32 = .ok (.push 0 2) := by decide
theorem test_decode_text : decode 0x20000000#32 = .ok .txbeg ∧ decode 0x21000023#32 = .ok (.txin 35) ∧
    decode 0x22000000#32 = .ok .txdig ∧ decode 0x23000000#32 = .ok .txrev ∧ decode 0x24000000#32 = .ok .txout ∧
    decode 0x25000C00#32 = .ok (.trd 12) := by decide
theorem test_decode_bitmap : decode 0x30000000#32 = .ok .bclr ∧ decode 0x31050200#32 = .ok (.bptr 5 2) ∧
    decode 0x32000001#32 = .ok (.bbit 1) ∧ decode 0x33FF8000#32 = .ok (.brgb 255 128 0) ∧
    decode 0x34000000#32 = .ok .brd ∧ decode 0x352F2F01#32 = .ok (.bset 47 47 1) ∧
    decode 0x362F2F00#32 = .ok (.bget 47 47) := by decide
theorem test_decode_quadtree : decode 0x402E2E03#32 = .ok (.dleaf 46 46 3) ∧
    decode 0x41102000#32 = .ok (.drg 16 32 0) ∧ decode 0x42000002#32 = .ok (.eleaf 0 0 2) ∧
    decode 0x43202000#32 = .ok (.erg 32 32 0) := by decide
theorem test_decode_filter_and_orchestration : decode 0x50000000#32 = .ok .fenc ∧ decode 0x51000000#32 = .ok .fdec ∧
    decode 0x60000000#32 = .ok .dec ∧ decode 0x61303000#32 = .ok (.enc 48 48) ∧ decode 0x62000000#32 = .ok .hdr := by
  decide
theorem test_decode_system : decode 0x00000000#32 = .ok .nop ∧ decode 0x70000000#32 = .ok .eclr ∧
    decode 0x71000000#32 = .ok .srst := by decide

/-- The encoder writes the same words (spec/95_test_vectors.md section 3). -/
theorem test_encode : [Instr.vmad 94 2, .vdiv 256, .vrd 1, .pop 4, .push 4 15, .txin 35, .trd 12, .bptr 5 2, .bbit 1,
      .brgb 255 128 0, .bset 47 47 1, .bget 47 47, .dleaf 46 46 3, .drg 16 32 0, .eleaf 0 0 2, .enc 48 48].map encode =
    [0x02005E02#32, 0x03010000#32, 0x04000100#32, 0x10040000#32, 0x11040F00#32, 0x21000023#32, 0x25000C00#32,
      0x31050200#32, 0x32000001#32, 0x33FF8000#32, 0x352F2F01#32, 0x362F2F00#32, 0x402E2E03#32, 0x41102000#32,
      0x42000002#32, 0x61303000#32] := by decide

/-- Vectors E1 to E29, the illegal words: each is rejected, by the test named. -/
theorem test_decode_illegal : [0x00000001#32, 0x05000000#32, 0xFFFFFFFF#32, 0x10050000#32, 0x10000100#32, 0x11000300#32,
      0x11041000#32, 0x11040F01#32, 0x03000001#32, 0x21000100#32, 0x32000002#32, 0x31300000#32, 0x352F3001#32,
      0x35000002#32, 0x36000001#32, 0x41040001#32, 0x41282800#32, 0x41203000#32, 0x41000004#32, 0x412F2E03#32,
      0x61303001#32, 0x70000001#32, 0x50000100#32].map decode =
    [.error .mustBeZero, .error .unknownOpcode, .error .unknownOpcode, .error .tableSelector, .error .mustBeZero,
      .error .rowNumber, .error .rowNumber, .error .mustBeZero, .error .mustBeZero, .error .mustBeZero,
      .error .mustBeZero, .error .coordinate, .error .coordinate, .error .mustBeZero, .error .mustBeZero,
      .error .region, .error .region, .error .region, .error .mustBeZero, .error .region, .error .mustBeZero,
      .error .mustBeZero, .error .mustBeZero] := by decide

/-- The table's word of a row, read as the host numbers it. -/
theorem test_decodeTableWord : decodeTableWord 32 0x02005E02 = some (.vmad 94 2) ∧
    decodeTableWord 32 0x05000000 = none := by decide

/-- The first word after reset runs: one step from reset takes it and leaves no move behind (log 2). -/
theorem test_first_word_after_reset_runs :
    ([0x00000000, 0x02005E02, 0x11000200, 0x25000000, 0x41000000, 0x50000000, 0x60000000, 0x61303000, 0x71000000].all
      fun w => match step (State.reset.withFetchWord 32 w) with
        | .next _ => true
        | .fault _ => false
        | .refused _ => false) = true := by rfl

/-! ### The assembler (R100, R101) -/

theorem test_assemble_commands : assembleWords "PUSH 4, 15".toList = some [0x11040F00#32] ∧
    assembleWords "TXIN '#' ; a comment".toList = some [0x21000023#32] ∧
    assembleWords "VDIV 0x100".toList = some [0x03010000#32] ∧ assembleWords "PUSH 4".toList = none := by decide +kernel
theorem test_assemble_pseudo : assembleWords "DTOP 7".toList = some [0x41102000#32] ∧
    assembleWords "ETOP 4".toList = some [0x43101000#32] ∧ assembleWords "VADD 7".toList = some [0x02000107#32] ∧
    assembleWords "TXSTR \"#\\\"\"".toList = some [0x21000023#32, 0x21000022#32] := by decide +kernel

/-! ### APU -/

theorem test_vclr : after 0x01000000 { stA with v := 12345 } (fun t => (t.v, readRegister t 1)) = some (0, 4#32) := by
  decide +kernel -- A1
theorem test_vmad : after 0x02FFFFFF { stA with v := 65535 } vr = some (4294836480, 0#16) := by decide +kernel -- A8
theorem test_vmad_capacity : after 0x02000101 { stS with v := 65535 } (fun t => (t.v, trap t)) =
    some (65535, some .capacityFault, 0x02000101#32) := by decide +kernel -- A22
theorem test_vdiv : after 0x03FFFF00 { stA with v := 4294836480 } vr = some (65535, 255#16) := by decide +kernel -- A9
theorem test_vdiv_zero : after 0x03000000 { stA with v := 1000, r := 9 } (fun t => (vr t, trap t)) =
    some ((1000, 9#16), some .divideByZero, 0x03000000#32) := by decide +kernel -- A14
theorem test_vrd : after 0x04000100 { stA with v := 19077 } vr = some (19077, 74#16) := by decide +kernel -- A16
theorem test_vrd_ninth_byte : after 0x04000900 { stA with v := 2 ^ 72 } vr = some (2 ^ 72, 1#16) := by
  decide +kernel -- A19

/-! ### Symbol coder -/

theorem test_push : after 0x11040F00 { stA with v := 1000 } vr = some (85502, 0#16) := by decide +kernel -- C5
theorem test_push_zero_count : after 0x11030200 { stS with v := 65535 } (fun t => (t.v, trap t)) =
    some (65535, some .divideByZero, 0x11030200#32) := by decide +kernel -- C41
theorem test_pop : after 0x10040000 { stA with v := 1000 } vr = some (20, 7#16) := by decide +kernel -- C23
theorem test_pop_gap : after 0x10000000 { start cfgGap with v := 250, r := 9 } (fun t => (vr t, trap t)) =
    some ((250, 9#16), some .modelFault, 0x10000000#32) := by decide +kernel -- C35

/-! ### Text codec -/

theorem test_txbeg : after 0x20000000 { stA with v := 189, ne := true, text := [35, 34], r := 5, ptr := 7 }
    (fun t => (vr t, t.ptr, t.ne, t.tlen)) = some ((0, 5#16), 7#12, false, 0) := by decide +kernel -- T23
theorem test_txin : after 0x2100007E { stA with v := 2 } (fun t => (t.v, t.ne)) = some (281, true) := by
  decide +kernel -- T27
theorem test_txin_noise : after 0x2100007F { stA with v := 2 } (fun t => (t.v, t.ne)) = some (2, true) := by
  decide +kernel -- T28
theorem test_txdig : after 0x22000000 { stA with v := 189 } (fun t => (vr t, t.text)) = some ((2, 1#16), [34#8]) := by
  decide +kernel -- T30
theorem test_txdig_full : after 0x22000000 { stS with v := 5, text := [33, 33], r := 7 } (fun t => (vr t, t.tlen, trap t)) =
    some ((5, 7#16), 2, some .capacityFault, 0x22000000#32) := by decide +kernel -- T38
theorem test_txrev : after 0x23000000 { stA with text := [34, 35, 33] } (fun t => t.text) =
    some [33#8, 35#8, 34#8] := by decide +kernel -- T31
theorem test_txout : after 0x24000000 { stA with v := 3102070484, text := [65, 66, 67] } (fun t => (vr t, t.text)) =
    some ((0, 39#16), [72#8, 101#8, 108#8, 108#8, 111#8]) := by decide +kernel -- T20, `Hello`
theorem test_txout_zero : after 0x24000000 { stA with text := [65] } (fun t => (vr t, t.text)) =
    some ((0, 0#16), [33#8]) := by decide +kernel -- T7
theorem test_trd : after 0x25000100 { stA with text := [35, 34] } (fun t => (t.r, t.tlen)) = some (34#16, 2) := by
  decide +kernel -- T34
theorem test_trd_beyond : after 0x25000200 { stA with text := [35, 34], r := 35 } (fun t => (t.r, trap t)) =
    some (35#16, some .illegalCommand, 0x25000200#32) := by decide +kernel -- T35

/-! ### Bitmap access -/

theorem test_bclr : after 0x30000000 { (black stA [(1, 1), (47, 47)]) with ptr := 9 } (fun t => (t.bitmap, t.ptr)) =
    some (whiteBitmap, 9#12) := by decide +kernel -- B17
theorem test_bptr : after 0x31050200 stA (fun t => t.ptr) = some 101#12 := by decide +kernel -- B1
theorem test_bbit : after 0x32000001 { stA with ptr := 101 } (fun t => (t.bitmap, t.ptr)) =
    some ((black stA [(5, 2)]).bitmap, 102#12) := by decide +kernel -- B2
theorem test_bbit_wraps : after 0x32000001 { stA with ptr := 2303 } (fun t => (pixelAt t.bitmap 47 47, t.ptr)) =
    some (true, 0#12) := by decide +kernel -- B4
theorem test_brgb_black : after 0x33000000 stA (fun t => (pixelAt t.bitmap 0 0, t.ptr)) = some (true, 1#12) := by
  decide +kernel -- B5
theorem test_brgb_grey : after 0x33010101 { (black stA [(3, 0)]) with ptr := 3 }
    (fun t => (pixelAt t.bitmap 3 0, t.ptr)) = some (false, 4#12) := by decide +kernel -- B8
theorem test_brd_wraps : after 0x34000000 { (black stA [(47, 47)]) with ptr := 2303 } (fun t => (t.r, t.ptr)) =
    some (1#16, 0#12) := by decide +kernel -- B11
theorem test_bset : after 0x352F2F01 { stA with ptr := 55 } (fun t => (t.bitmap, t.ptr)) =
    some ((black stA [(47, 47)]).bitmap, 55#12) := by decide +kernel -- B12
theorem test_bget : after 0x362F2F00 (black stA [(47, 47)]) (fun t => t.r) = some 1#16 := by decide +kernel -- B13
theorem test_bget_outside : after 0x36300000 { stA with r := 3 } (fun t => (t.r, trap t)) =
    some (3#16, some .illegalCommand, 0x36300000#32) := by decide +kernel -- B16

/-! ### Quad-tree engine -/

theorem test_erg_split : after 0x43000002 (black stA [(0, 0)]) (fun t => (t.v, t.err)) =
    some (19077, false) := by decide +kernel -- Q6
theorem test_erg_black : after 0x43000002 (black stA [(0, 0), (2, 0), (0, 2), (3, 3)]) (fun t => t.v) =
    some 266483 := by decide +kernel -- Q7
theorem test_drg : after 0x41000002 { stA with v := 391265 } (fun t => (vr t, t.bitmap)) =
    some ((0, 0#16), (black stA [(0, 0), (2, 0), (0, 2)]).bitmap) := by decide +kernel -- Q8d
theorem test_drg_split_at_level_3 : after 0x41000003 (start cfgSpl3) (fun t => (t.err, t.ptr, trap t)) =
    some (true, 0#12, some .modelFault, 0x41000003#32) := by decide +kernel -- Q19
theorem test_eleaf : after 0x42000002 (black stA [(0, 0), (3, 0), (1, 2), (2, 2), (2, 3), (3, 3)]) (fun t => t.v) =
    some 71168 := by decide +kernel -- Q11
theorem test_eleaf_white_block : after 0x42000002 (black stA [(0, 0)]) (fun t => (t.bitmap, t.r, trap t)) =
    some ((black stA [(0, 0)]).bitmap, 0#16, some .divideByZero, 0x42000002#32) := by decide +kernel -- Q18
theorem test_dleaf : after 0x40000002 { (black stA [(1, 1), (2, 1)]) with v := 71168 } (fun t => (t.v, t.bitmap)) =
    some (0, (black stA [(0, 0), (3, 0), (1, 2), (2, 2), (2, 3), (3, 3)]).bitmap) := by decide +kernel -- Q11d
theorem test_dleaf_last_block : after 0x402E2E03 stA (fun t => (vr t, t.bitmap)) =
    some ((0, 1#16), (black stA [(46, 46)]).bitmap) := by decide +kernel -- Q12

/-! ### Filter -/

/-- Vector F1.14. -/
theorem test_context : context (black stA [(8, 8), (9, 10), (12, 9), (10, 9)]).bitmap 10 10 = 2129 ∧
    contextBits 10 10 = 12 ∧ positionClass 10 10 = 10 := by decide +kernel
theorem test_position_class : [positionClass 2 0, positionClass 3 0, positionClass 46 1, positionClass 47 2,
    positionClass 47 47] = [0, 1, 4, 8, 11] := by decide -- the bucket edges of section 9
/-- Vector F2: (1,0), (2,0), (1,1) and (2,2) see (0,0) and turn black; (3,0) and (3,2) do not. Every prediction is from the
bitmap as it was. -/
theorem test_fenc_pixels : ([(1, 0), (2, 0), (3, 0), (1, 1), (2, 2), (3, 2)].map fun p =>
      (filterPixel cfgB (black stA [(0, 0)]).bitmap whiteBitmap (rasterIndex p.1 p.2)).toOption.map fun b =>
        pixelAt b p.1 p.2) =
    [some true, some true, some false, some true, some true, some false] := by decide +kernel
theorem test_fenc_model_fault : after 0x50000000 (black (start cfgF512) [(0, 0)]) trap =
    some (some .modelFault, 0x50000000#32) := by decide +kernel -- F11
/-- Vector F6: row 0 of FDEC starts `##.##.##`: a context is read from pixels already rewritten. -/
theorem test_fdec_row : (((List.range 8).foldlM (fun b i => filterPixel cfgB b b i)
      (black stA [(0, 0)]).bitmap).toOption.map fun b => (List.range 8).map fun x => pixelAt b x 0) =
    some [true, true, false, true, true, false, true, true] := by decide +kernel
theorem test_fdec_model_fault : after 0x51000000 (black (start cfgF512) [(0, 0)]) trap =
    some (some .modelFault, 0x51000000#32) := by decide +kernel -- R222: (0,0) stays, (2,2) sees it

/-! ### Orchestration and system -/

/-- Vector O1, its two parts after the filter: the nine regions of a white bitmap, and the text. -/
theorem test_enc_regions : ((encodeRegions stA).toOption.map fun t => (t.v, (txout t).toOption.map fun u => u.text)) =
    some (70931694063976443, some [44#8, 92#8, 109#8, 123#8, 63#8, 104#8, 92#8, 41#8, 88#8]) := by decide +kernel
theorem test_enc_dimensions : after 0x612F3000 { (black stA [(3, 3)]) with v := 7, r := 2, text := [65] }
    (fun t => (vr t, t.text, trap t)) = some ((7, 2#16), [65#8], some .dimensionError, 0x612F3000#32) := by
  decide +kernel -- O11
theorem test_enc_model_fault : after 0x61303000 { (black (start cfgF512) [(0, 0)]) with ptr := 9, ne := true }
    (fun t => (t.ptr, t.ne, trap t)) = some (9#12, true, some .modelFault, 0x61303000#32) := by decide +kernel -- R220, R272
/-- Vector O1d, DEC before its filter. -/
theorem test_dec_regions : ((decodeRegions { stA with v := 70931694063976443 }).toOption.map fun t => (vr t, t.bitmap)) =
    some ((0, 0#16), whiteBitmap) := by decide +kernel
theorem test_dec_model_fault : after 0x60000000 { start cfgGap with v := 250 } (fun t => (t.err, t.tlen, trap t)) =
    some (true, 0, some .modelFault, 0x60000000#32) := by decide +kernel -- R141, R237: no row contains 250
theorem test_hdr : after 0x62000000 { stA with ne := true } (fun t => t.r) = some 0x3030#16 := by decide +kernel -- O9
theorem test_hdr_empty : after 0x62000000 { stA with r := 5 } (fun t => (t.r, trap t)) =
    some (5#16, some .formatError, 0x62000000#32) := by decide +kernel -- O10
theorem test_nop : after 0x00000000 { stA with v := 5, r := 6, ptr := 7 } (fun t => (vr t, t.ptr)) =
    some ((5, 6#16), 7#12) := by decide +kernel -- X1

/-- The state after vector X2: `VDIV 0` has faulted. -/
def faulted : State := { stA with v := 1000, err := true, cause := some .divideByZero, info := 0x03000000#32 }

theorem test_dropped_while_faulted : [after 0x01000000 faulted (fun t => (t.v, trap t)),
      after 0x05000000 faulted (fun t => (t.v, trap t)), after 0x70000001 faulted (fun t => (t.v, trap t))] =
    List.replicate 3 (some (1000, some .divideByZero, 0x03000000#32)) := by decide +kernel -- X3, X4, X5
theorem test_eclr : after 0x70000000 faulted (fun t => (t.v, t.err, trap t, readRegister t 1)) =
    some (1000, false, (none, 0#32), 0#32) := by decide +kernel -- X6
theorem test_srst : after 0x71000000 { (black stA [(1, 1)]) with v := 251, r := 7, ptr := 100, text := [33], ne := true }
    (fun t => (vr t, t.ptr, t.tlen, t.ne, readRegister t 1, pixelAt t.bitmap 1 1)) =
    some ((0, 0#16), 0#12, 0, false, 4#32, true) := by decide +kernel -- X8
theorem test_srst_while_faulted : after 0x71000000 faulted (fun t => (t.v, t.err, trap t)) =
    some (0, false, none, 0#32) := by decide +kernel -- X9
theorem test_decoding_comes_first : after 0x612F3001 stA trap = some (some .illegalCommand, 0x612F3001#32) := by
  decide +kernel -- X17
theorem test_identity_registers : [0x0, 0x8, 0x9, 0xA, 0xB, 0x7, 0xC, 0xFF].map (readRegister stA) =
    [0x00003030#32, 0x67616D69#32, 0x2D782F65#32, 0x63616678#32, 0x00000065#32, 0#32, 0#32, 0#32] := by
  decide +kernel -- X11, X12
theorem test_status_register : readRegister faulted 1 = 2#32 ∧ readRegister { stA with v := 1, ne := true } 1 = 8#32 ∧
    readRegister { stA with ne := true } 1 = 12#32 := by decide +kernel -- X2, X13, X14

/-! ### Witnesses: the hypotheses of each statement met together, clause by clause -/

/-- The machine about to take a word. -/
def about (w : Nat) (s : State) : State := s.withFetchWord 32 w

/-- The premises on the ROM hold of the reference tables with the all-zero filter. -/
theorem test_witness_rom_premises : romWellFormed cfgA ∧ filterComplete cfgA ∧ encodeComplete cfgA ∧ noDeepSplit cfgA ∧
    cfgA.vcap = none ∧ cfgA.tcap = none := by
  refine ⟨?_, ?_, ?_, ?_, rfl, rfl⟩ <;> decide +kernel
theorem test_witness_capacities : capacitySuffices cfgA ∧
    capacitySuffices { Config.reference with vcap := some 10728, tcap := some 1637 } := by
  constructor <;> constructor <;> intro k h <;> cases h <;> omega

/-- No capacity: nothing to meet. -/
theorem test_witness_no_vcap (P : Nat → Prop) : ∀ k, stA.cfg.vcap = some k → P k := by
  intro k h; cases h
theorem test_witness_no_tcap (P : Nat → Prop) : ∀ k, stA.cfg.tcap = some k → P k := by
  intro k h; cases h

theorem test_witness_DecodeInvertsEncode : (Instr.erg 46 46 3).wellFormed = true ∧ (Instr.enc 255 0).wellFormed = true ∧
    (Instr.bset 47 47 1).wellFormed = true := by decide
theorem test_witness_EncodeInvertsDecode : decode 0x11040F00#32 = .ok (.push 4 15) := by decide
theorem test_witness_DecoderFollowsDisjointRows : decodeRow 0x11041000#32 = .ok (.push 4 16) ∧
    Instr.push 0 0 ∈ tableCommands ∧ (Instr.push 0 0).selectedBy 0x11041000#32 = true := by decide
theorem test_witness_StepRunsDecodedCommand : (about 0x02000107 stA).moves = .command 0x02000107#32 :: [] ∧
    (about 0x02000107 stA).err = false ∧ decode 0x02000107#32 = .ok (.vmad 1 7) := by decide +kernel
theorem test_witness_EveryStepAnswersNext : stA.moves = [] := rfl

/-- Every way a word can be illegal, TRD's index at TLEN included. -/
theorem test_witness_IllegalCommandIsPrecise : stA.err = false ∧
    (∀ j ∈ tableCommands, j.selectedBy 0x05000000#32 = false) ∧
    decodeRow 0x10050000#32 = .ok (.pop 5) ∧ decodeRow 0x11050000#32 = .ok (.push 5 0) ∧
    decodeRow 0x11030300#32 = .ok (.push 3 3) ∧ decodeRow 0x11041000#32 = .ok (.push 4 16) ∧
    decodeRow 0x31300000#32 = .ok (.bptr 48 0) ∧ decodeRow 0x35003001#32 = .ok (.bset 0 48 1) ∧
    decodeRow 0x36303000#32 = .ok (.bget 48 48) ∧ decodeRow 0x402F2E03#32 = .ok (.dleaf 47 46 3) ∧
    decodeRow 0x41203000#32 = .ok (.drg 32 48 0) ∧ decodeRow 0x42040001#32 = .ok (.eleaf 4 0 1) ∧
    decodeRow 0x43282800#32 = .ok (.erg 40 40 0) ∧ decodeRow 0x25000200#32 = .ok (.trd 2) ∧
    ({ stA with text := [35, 34] } : State).text.length ≤ (2#16).toNat := by decide +kernel

/-- Faulted, and a word that is dropped; not faulted: a word that decodes and one that does not. -/
theorem test_witness_FaultedMachineAcceptsOnlyClearing : faulted.err = true ∧ (0x70000001#32 ≠ 0x70000000#32) ∧
    (0x70000001#32 ≠ 0x71000000#32) ∧ stA.err = false ∧ decode 0x00000000#32 = .ok .nop ∧
    decode 0x05000000#32 = .error .unknownOpcode := by decide +kernel
theorem test_witness_RegisterReadPort : ({ faulted with moves := [.readRegister 2] } : State).moves =
    .readRegister 2 :: [] ∧ (readRegister faulted 2).toNat = 5 ∧ readRegister faulted 0x7 = 0 := by decide +kernel
theorem test_witness_HardwareResetClearsRegisters :
    ({ faulted with moves := [.reset] } : State).moves = .reset :: [] := rfl

/-- The invariant holds of a faulted machine with its pointer at the last pixel and V and T at their capacities. -/
theorem test_witness_StepKeepsInvariant :
    ({ faulted with v := 65535, ptr := 2303, text := [33, 34], cfg := cfgS } : State).Inv := by
  unfold State.Inv; decide +kernel
theorem test_witness_StepKeepsConfiguration : ∃ t, step (about 0x01000000 stA) = .next t := ⟨_, rfl⟩
theorem test_witness_CommandsWriteOnlyTheirState : (∃ t, exec (.bset 0 0 1) stA = .next t) ∧ writesV (.bset 0 0 1) = false ∧
    writesR (.bset 0 0 1) = false ∧ writesPtr (.bset 0 0 1) = false ∧ writesText (.bset 0 0 1) = false ∧
    writesNe (.bset 0 0 1) = false ∧ isMacro (.bset 0 0 1) = false ∧ writesBitmap (.erg 0 0 0) = false :=
  ⟨⟨_, rfl⟩, rfl, rfl, rfl, rfl, rfl, rfl, rfl⟩

/-- A command that faults, one that clears, one that does neither. -/
theorem test_witness_FaultRegistersWrittenOnlyByFaultsAndClears : (∃ t, exec (.vdiv 0) stA = .next t) ∧
    (∃ t, exec .eclr faulted = .next t) ∧ ∃ t, exec .nop faulted = .next t := ⟨⟨_, rfl⟩, ⟨_, rfl⟩, ⟨_, rfl⟩⟩

/-- The state after a command that faults. -/
theorem test_witness_FaultsEachCommandRaises : (Instr.eleaf 0 0 2).wellFormed = true ∧ (black stA [(0, 0)]).err = false ∧
    ∃ t, exec (.eleaf 0 0 2) (black stA [(0, 0)]) = .next t ∧ t.err = true :=
  ⟨by decide, by decide +kernel, _, rfl, by decide +kernel⟩
theorem test_witness_FaultsArePrecise : stA.err = false ∧ (∃ t, present 0x03000000#32 stA = .next t ∧ t.err = true ∧
    t.cause = some .divideByZero) ∧ decode 0x03000000#32 = .ok (.vdiv 0) ∧ isMacro (.vdiv 0) = false ∧
    (∃ t, present 0x05000000#32 stA = .next t ∧ t.err = true ∧ t.cause = some .illegalCommand) ∧
    ∃ t, present 0x612F3000#32 stA = .next t ∧ t.err = true ∧ t.cause = some .dimensionError :=
  ⟨rfl, ⟨_, rfl, rfl, rfl⟩, by decide, rfl, ⟨_, rfl, rfl, rfl⟩, _, rfl, rfl, rfl⟩
theorem test_witness_MacroFaultScope : (black stA [(0, 0)]).Inv ∧ isMacro (.eleaf 0 0 2) = true ∧
    ∃ t, exec (.eleaf 0 0 2) (black stA [(0, 0)]) = .next t ∧ t.err = true ∧ t.cause = some .divideByZero :=
  ⟨by unfold State.Inv; decide +kernel, rfl, _, rfl, by decide +kernel, by decide +kernel⟩

/-- VMAD at the last value that fits and the first that does not: 697*94 + 17 = 65535 and 65535*1 + 1 = 65536. -/
theorem test_witness_VmadMultipliesAndAdds :
    (∀ k, stS.cfg.vcap = some k → 697 * (94#16).toNat + (17#8).toNat < 2 ^ k) ∧
    ∃ k, stS.cfg.vcap = some k ∧ 2 ^ k ≤ 65535 * (1#16).toNat + (1#8).toNat := by
  refine ⟨fun k h => ?_, 16, rfl, by decide⟩
  cases h; decide
theorem test_witness_VclrClearsV : (0x01000001#32).extractLsb' 24 8 = 0x01#8 ∧ 0x01000001#32 ≠ 0x01000000#32 ∧
    (0x32000002#32).extractLsb' 24 8 = 0x32#8 ∧ (0x32000002#32).extractLsb' 1 7 ≠ 0#7 ∧
    (0x35000002#32).extractLsb' 24 8 = 0x35#8 ∧ (0x36000001#32).extractLsb' 0 8 ≠ 0#8 := by decide
theorem test_witness_VdivDividesWithRemainder : (1#16 : BitVec 16) ≠ 0 ∧ (0#16 : BitVec 16) = 0 := by decide

/-- POP: row 0 of the level-0 table at both ends of its range, and a number no row of the gapped table contains. -/
theorem test_witness_PopDecodesOneSymbol : (0#8).toNat ≤ 4 ∧
    (tableRows stA.cfg 0)[0]? = some (romRow 4 251) ∧ (romRow 4 251).base.val ≤ 251 % 256 ∧
    251 % 256 < (romRow 4 251).base.val + (romRow 4 251).count.val ∧
    254 % 256 < (romRow 4 251).base.val + (romRow 4 251).count.val ∧
    ∀ row ∈ tableRows cfgGap 0, ¬ (row.base.val ≤ 250 % 256 ∧ 250 % 256 < row.base.val + row.count.val) := by
  decide +kernel

/-- PUSH: a row with count 0, one that fits VCAP 16 exactly (V = 255), one that does not (V = 256). -/
theorem test_witness_PushEncodesOneSymbol : (tableRows stS.cfg 3)[2]? = some (romRow 0 0) ∧
    (romRow 0 0).count.val = 0 ∧ (tableRows stS.cfg 0)[1]? = some (romRow 1 255) ∧ (romRow 1 255).count.val ≠ 0 ∧
    (∀ k, stS.cfg.vcap = some k →
      255 / (romRow 1 255).count.val * 256 + (255 % (romRow 1 255).count.val + (romRow 1 255).base.val) < 2 ^ k) ∧
    ∃ k, stS.cfg.vcap = some k ∧
      2 ^ k ≤ 256 / (romRow 1 255).count.val * 256 + (256 % (romRow 1 255).count.val + (romRow 1 255).base.val) := by
  refine ⟨by decide +kernel, rfl, by decide +kernel, by decide, fun k h => ?_, 16, rfl, by decide⟩
  cases h; decide
theorem test_witness_CoderOperandsAreChecked : 5 ≤ (5#8).toNat ∧ ((3#8).toNat ≤ 3 ∧ 3 ≤ (3#8).toNat) ∧
    ((4#8).toNat = 4 ∧ 16 ≤ (16#8).toNat) ∧ (0x10000100#32).extractLsb' 24 8 = 0x10#8 ∧
    (0x10000100#32).extractLsb' 8 8 ≠ 0#8 := by decide
theorem test_witness_PushAndPopAreInverse : (4#8).toNat ≤ 4 ∧ tableWellFormed (tableRows stA.cfg (4#8).toNat) ∧
    (tableRows stA.cfg (4#8).toNat)[(15#8).toNat]? = some (romRow 3 253) ∧ 1 ≤ (romRow 3 253).count.val := by
  decide +kernel
theorem test_witness_SymbolSequenceRoundTrip : stA.err = false ∧ ∀ p ∈ ([(0, 0), (4, 15)] : List (Byte × Byte)),
    p.1.toNat ≤ 4 ∧ tableWellFormed (tableRows stA.cfg p.1.toNat) ∧ countOf stA.cfg p.1.toNat p.2.toNat ≠ 0 := by
  refine ⟨rfl, fun p hp => ?_⟩
  simp only [List.mem_cons, List.not_mem_nil, or_false] at hp
  rcases hp with rfl | rfl
  · exact ⟨by decide, by decide +kernel, by decide +kernel⟩
  · exact ⟨by decide, by decide +kernel, by decide +kernel⟩

/-- TXIN: both ends of the data range, both bytes outside it, and the first value that does not fit (T39). -/
theorem test_witness_TxinFoldsCharacter : (33 ≤ (33#8).toNat ∧ (33#8).toNat ≤ 126) ∧
    (33 ≤ (126#8).toNat ∧ (126#8).toNat ≤ 126) ∧ (32#8).toNat < 33 ∧ 126 < (127#8).toNat ∧
    (∀ k, stS.cfg.vcap = some k → 697 * 94 + ((50#8).toNat - 33) < 2 ^ k) ∧
    ∃ k, stS.cfg.vcap = some k ∧ 2 ^ k ≤ 706 * 94 + ((126#8).toNat - 33) := by
  refine ⟨by decide, by decide, by decide, by decide, fun k h => ?_, 16, rfl, by decide⟩
  cases h; decide

/-- TXDIG: one byte of room, and none, with TCAP 2. -/
theorem test_witness_TxdigExtractsDigit :
    (∀ k, ({ stS with text := [33] } : State).cfg.tcap = some k → ([33] : List Byte).length < k) ∧
    ∃ k, ({ stS with text := [33, 33] } : State).cfg.tcap = some k ∧ k ≤ ([33, 33] : List Byte).length := by
  refine ⟨fun k h => ?_, 2, rfl, by decide⟩
  cases h; decide

/-- TXOUT: two digits fit TCAP 2 (T36), three do not (T37). -/
theorem test_witness_TxoutWritesBase94 :
    (∀ k, ({ stS with v := 8835 } : State).cfg.tcap = some k → (Nat.digits 94 8835).length ≤ k) ∧
    ∃ k, ({ stS with v := 8836 } : State).cfg.tcap = some k ∧ k < (Nat.digits 94 8836).length := by
  refine ⟨fun k h => ?_, 2, rfl, by norm_num⟩
  cases h; norm_num

/-- TRD: the last index and the first beyond it. -/
theorem test_witness_TrdReadsTextByte : ([35, 34] : List Byte)[(1#16).toNat]? = some 34#8 ∧
    ([35, 34] : List Byte).length ≤ (2#16).toNat := by decide
theorem test_witness_TextLoadGivesBase94Value : stS.err = false ∧ ∀ k, stS.cfg.vcap = some k → Nat.ofDigits 94
    ((([35, 32, 34] : List Byte).filter fun c => 33 ≤ c.toNat ∧ c.toNat ≤ 126).map fun c => c.toNat - 33).reverse
      < 2 ^ k := by
  refine ⟨rfl, fun k h => ?_⟩
  cases h; decide
theorem test_witness_TextLoadIgnoresNoise : stA.err = false ∧
    ∃ c ∈ ([32, 35] : List Byte), 33 ≤ c.toNat ∧ c.toNat ≤ 126 := by decide +kernel
theorem test_witness_TextRoundTrip : stA.err = false ∧ stA.cfg.tcap = none ∧
    ∃ a, presentAll (loadText [33, 35, 32]) stA = .next a ∧ a.err = false := ⟨rfl, rfl, _, rfl, by decide +kernel⟩

/-- Both coordinates at 47; each one at 48. -/
theorem test_witness_BptrSetsPointer : (47#8).toNat ≤ 47 ∧ 47 < (48#8).toNat ∧
    (∃ v : BitVec 1, Instr.bset 48 0 1 = .bset 48 0 v) := ⟨by decide, by decide, 1, rfl⟩
theorem test_witness_BsetWritesAndBgetReadsOnePixel : (47#8).toNat ≤ 47 ∧ (0#8).toNat ≤ 47 ∧ 47 < (48#8).toNat := by
  decide
theorem test_witness_BclrWhitensEveryPixel : (0#8).toNat ≤ 47 ∧ (47#8).toNat ≤ 47 := by decide

/-- The pointer at the first and at the last pixel, for BBIT, BRGB and BRD. -/
theorem test_witness_BbitStreamsPixel : stA.ptr.toNat < 2304 ∧ ({ stA with ptr := 2303 } : State).ptr.toNat < 2304 ∧
    ({ stA with ptr := 2303 } : State).ptr.toNat = 2303 := by decide +kernel
theorem test_witness_BrgbNormalisesPixel : ({ stA with ptr := 2302 } : State).ptr.toNat < 2304 := by decide +kernel
theorem test_witness_BrdReadsPixel : ({ stA with ptr := 2303 } : State).ptr.toNat < 2304 := by decide +kernel
theorem test_witness_ImageLoadWritesEveryPixel : stA.err = false ∧ (List.replicate 2304 true).length = 2304 :=
  ⟨rfl, List.length_replicate⟩

/-- A region that is not aligned, one that is past the right edge, one that is past the bottom. -/
theorem test_witness_RegionOperandsAreChecked :
    ¬ ((4#8).toNat % (16 / 2 ^ (1#2).toNat) = 0) ∧ ¬ ((48#8).toNat + 16 / 2 ^ (3#2).toNat ≤ 48) ∧
    ¬ ((48#8).toNat + 16 / 2 ^ (0#2).toNat ≤ 48) ∧ Instr.erg 4 0 1 = .erg 4 0 1 := by decide

/-- The four region commands on the last 2×2 block, on a region that has quadrants and on a largest region. -/
theorem test_witness_regions : stA.err = false ∧ (Instr.dleaf 46 46 3).wellFormed = true ∧
    (Instr.drg 44 0 2).wellFormed = true ∧ (Instr.eleaf 32 32 0).wellFormed = true ∧
    (Instr.erg 40 40 1).wellFormed = true ∧ tableWellFormed (tableRows stA.cfg leafTable) := by decide +kernel
theorem test_witness_DleafRunsQuadrantsInOrder : stA.err = false ∧ (Instr.dleaf 46 46 3).wellFormed = true ∧
    (Instr.dleaf 32 32 0).wellFormed = true ∧ tableWellFormed (tableRows stA.cfg leafTable) := by decide +kernel

/-- A leaf table whose last row is one short: not well-formed, no row contains 255, row 15 contains 253. -/
def cfgLeafGap : Config := { Config.reference with leaf := Config.reference.leaf.set 15 (romRow 2 253) }

/-- DLEAF on a leaf table that is not well-formed: a pop that completes, and a V that no row contains. -/
theorem test_witness_DleafRunsQuadrantsInOrder_any_rom : ¬ tableWellFormed (tableRows cfgLeafGap leafTable) ∧
    (∃ s1, exec (.pop 4) { start cfgLeafGap with v := 253 } = .next s1 ∧ s1.err = false) ∧
    (∃ t, exec (.dleaf 0 0 3) { start cfgLeafGap with v := 253 } = .next t ∧ t.err = false) ∧
    ∀ row ∈ tableRows cfgLeafGap leafTable, ¬ (row.base.val ≤ 255 % 256 ∧ 255 % 256 < row.base.val + row.count.val) :=
  ⟨by decide +kernel, ⟨_, rfl, by decide +kernel⟩, ⟨_, rfl, by decide +kernel⟩, by decide +kernel⟩

/-- DRG: the symbol is S_SPLIT at V = 0, S_EMPTY at V = 251, S_FILL at V = 255 (C11, C13, C15). -/
theorem test_witness_DrgFollowsItsSymbol : stA.err = false ∧ (Instr.drg 32 32 0).wellFormed = true ∧
    romWellFormed stA.cfg ∧ noDeepSplit stA.cfg ∧
    ([0, 251, 255].map fun v => match exec (.pop 0) { stA with v := v } with
      | .next t => t.r
      | .fault _ => 9
      | .refused _ => 9) = [2#16, 0#16, 1#16] := by
  refine ⟨rfl, by decide, by decide +kernel, by decide +kernel, by decide +kernel⟩

/-- DRG's faults: no row contains V (Q21); S_SPLIT at level 3 (Q19). -/
theorem test_witness_DrgFollowsItsSymbol_fault :
    (∀ row ∈ tableRows cfgGap (0#2).toNat,
      ¬ (row.base.val ≤ 250 % 256 ∧ 250 % 256 < row.base.val + row.count.val)) ∧
    (Instr.drg 0 0 3).wellFormed = true ∧ (start cfgSpl3).err = false ∧
    ∃ s1, exec (.pop ((3#2).setWidth 8)) (start cfgSpl3) = .next s1 ∧ s1.err = false ∧ s1.r = 2 :=
  ⟨by decide +kernel, by decide, rfl, _, rfl, by decide +kernel, by decide +kernel⟩

/-- DRG completing on a ROM with a split at level 3 (Q20). -/
theorem test_witness_DrgFollowsItsSymbol_any_rom :
    ∃ t, exec (.drg 0 0 3) { start cfgSpl3 with v := 31 } = .next t ∧ t.err = false := ⟨_, rfl, by decide +kernel⟩

/-- ELEAF: every block with a count, on a 2×2 block and on a 4×4 region; and a block without one. -/
theorem test_witness_EleafRunsQuadrantsInReverse : stA.cfg.vcap = none ∧ (Instr.eleaf 0 0 2).wellFormed = true ∧
    (∀ i < 8 / 2 ^ (2#2).toNat, ∀ j < 8 / 2 ^ (2#2).toNat, countOf stA.cfg leafTable
      (blockPattern (black stA [(0, 0), (3, 0), (1, 2), (2, 2)]).bitmap ((0#8).toNat + 2 * i) ((0#8).toNat + 2 * j)) ≠ 0) ∧
    (∀ i < 8 / 2 ^ (3#2).toNat, ∀ j < 8 / 2 ^ (3#2).toNat, countOf stA.cfg leafTable
      (blockPattern (black stA [(0, 0)]).bitmap ((0#8).toNat + 2 * i) ((0#8).toNat + 2 * j)) ≠ 0) ∧
    ∃ i < 8 / 2 ^ (2#2).toNat, ∃ j < 8 / 2 ^ (2#2).toNat, countOf stA.cfg leafTable
      (blockPattern (black stA [(0, 0)]).bitmap ((0#8).toNat + 2 * i) ((0#8).toNat + 2 * j)) = 0 := by
  refine ⟨rfl, by decide, by decide +kernel, by decide +kernel, by decide +kernel⟩

/-- ERG: a 4×4 region that is white, one that is black though most of its pixels are white (Q7), one that is neither (Q8). -/
theorem test_witness_ErgClassifiesItsRegion : stA.err = false ∧ (Instr.erg 0 0 2).wellFormed = true ∧
    encodeComplete stA.cfg ∧ stA.cfg.vcap = none ∧ allWhite stA.bitmap 0 0 4 = true ∧
    allWhite (black stA [(0, 0), (2, 0), (0, 2), (3, 3)]).bitmap 0 0 4 = false ∧
    allBlack (black stA [(0, 0), (2, 0), (0, 2), (3, 3)]).bitmap 1 0 0 = true ∧
    allWhite (black stA [(0, 0), (2, 0), (0, 2)]).bitmap 0 0 4 = false ∧
    allBlack (black stA [(0, 0), (2, 0), (0, 2)]).bitmap 1 0 0 = false := by
  refine ⟨rfl, by decide, by decide +kernel, rfl, by decide +kernel, by decide +kernel, by decide +kernel, by decide +kernel,
    by decide +kernel⟩

/-- A bitmap white in the region for ERG and DRG; every pattern with a count for ELEAF and DLEAF. -/
theorem test_witness_RegionRoundTrip : stA.err = false ∧ (Instr.erg 46 46 3).wellFormed = true ∧ romWellFormed stA.cfg ∧
    stA.cfg.vcap = none ∧ encodeComplete stA.cfg ∧ (∀ i j, pixelAt (Vector.replicate 48 0#48) i j = false) ∧
    ∀ i < 8 / 2 ^ (3#2).toNat, ∀ j < 8 / 2 ^ (3#2).toNat, countOf stA.cfg leafTable
      (blockPattern (black stA [(47, 47)]).bitmap ((46#8).toNat + 2 * i) ((46#8).toNat + 2 * j)) ≠ 0 := by
  refine ⟨rfl, by decide, by decide +kernel, rfl, by decide +kernel, fun i j => ?_, by decide +kernel⟩
  simp only [pixelAt, Vector.getElem?_replicate]
  split <;> simp

/-- The corners of the grid for the window, the last interior pixel for the weights. -/
theorem test_witness_FilterContextAndClass : (window 0 0).length = contextBits 0 0 ∧
    (window 47 47).length = contextBits 47 47 ∧ (43 < 44 ∧ 45 < 46) ∧ positionClass 47 47 = 11 := by decide

/-- FENC: a filter-complete table; an index that is in range and one that is not (F11). -/
theorem test_witness_FencXorsPredictionFromOriginal : filterComplete stA.cfg ∧
    cfgF512.foff[positionClass 2 2]? = some 0 ∧ cfgF512.ftBits ≤ context (black stA [(0, 0)]).bitmap 2 2 + 0 ∧
    context (black stA [(0, 0)]).bitmap 1 2 + 0 < cfgF512.ftBits ∧
    predict cfgF512 (black stA [(0, 0)]).bitmap 2 2 = .error .modelFault :=
  ⟨test_witness_rom_premises.2.1, by decide +kernel, by decide +kernel, by decide +kernel, by decide +kernel⟩

/-- FDEC: with the pixels before (2, 2) restored, its index is out of range (F11 for FDEC). -/
theorem test_witness_FdecXorsPredictionFromRestored : filterComplete stA.cfg ∧
    (∀ i < 98, ∃ p, predict cfgF512 (black stA [(0, 0)]).bitmap (i % 48) (i / 48) = .ok p ∧
      pixel (black stA [(0, 0)]).bitmap i = (pixel (black (start cfgF512) [(0, 0)]).bitmap i ^^ p)) ∧
    predict cfgF512 (black stA [(0, 0)]).bitmap (98 % 48) (98 / 48) = .error .modelFault :=
  ⟨test_witness_rom_premises.2.1, by decide +kernel, by decide +kernel⟩

theorem whiteBitmap_pixelAt (x y : Nat) : pixelAt whiteBitmap x y = false := by
  simp only [pixelAt, whiteBitmap, Vector.getElem?_replicate]
  split <;> simp

theorem whiteBitmap_context (x y : Nat) : context whiteBitmap x y = 0 := by
  simp only [context, whiteBitmap_pixelAt, Bool.toNat_false, Nat.add_zero]
  induction window x y with
  | nil => rfl
  | cons p ps ih => exact ih

/-- FDEC: a bitmap restored to itself, on a table that is not filter-complete (F19 for FDEC). -/
theorem test_witness_FdecXorsPredictionFromRestored_any_rom : ∀ i < 2304, ∃ p,
    predict cfgF512 whiteBitmap (i % 48) (i / 48) = .ok p ∧ pixel whiteBitmap i = (pixel (start cfgF512).bitmap i ^^ p) := by
  intro i _
  refine ⟨false, ?_, (Bool.xor_false _).symm⟩
  have hoff : (cfgF512.foff[positionClass (i % 48) (i / 48)]?).getD 0 = 0 := by
    simp only [cfgF512, Config.reference, Vector.getElem?_replicate]
    split <;> rfl
  simp only [predict, whiteBitmap_context, hoff]
  simp [cfgF512]
theorem test_witness_FilterPassesAreInverse : stA.err = false ∧ filterComplete stA.cfg :=
  ⟨rfl, test_witness_rom_premises.2.1⟩
theorem test_witness_DecCompletesAsItsComponents : stA.err = false ∧ romWellFormed stA.cfg ∧ filterComplete stA.cfg ∧
    noDeepSplit stA.cfg :=
  ⟨rfl, test_witness_rom_premises.1, test_witness_rom_premises.2.1, test_witness_rom_premises.2.2.2.1⟩
theorem test_witness_EncCompletesAsItsComponents : stA.err = false ∧ romWellFormed stA.cfg ∧ filterComplete stA.cfg ∧
    encodeComplete stA.cfg ∧ capacitySuffices stA.cfg :=
  ⟨rfl, test_witness_rom_premises.1, test_witness_rom_premises.2.1, test_witness_rom_premises.2.2.1,
    test_witness_capacities.1⟩
theorem test_witness_ImageRoundTrip : stA.err = false ∧ romWellFormed stA.cfg ∧ filterComplete stA.cfg ∧
    encodeComplete stA.cfg ∧ capacitySuffices stA.cfg := test_witness_EncCompletesAsItsComponents
theorem test_witness_EncRejectsOtherDimensions : ((47#8).toNat ≠ 48 ∨ (48#8).toNat ≠ 48) ∧
    ((48#8).toNat ≠ 48 ∨ (49#8).toNat ≠ 48) := by decide
theorem test_witness_HdrAnswersNonEmptyText : ({ stA with ne := true } : State).ne = true ∧ stA.ne = false := by
  decide +kernel

end Sys2Proof.Tests
end

