-- ==== Sys2Proof/Proofs/Scope.lean ====
section
/-! PROOF. The scope statements (spec/00_scope.md): what a step does with each move of the host, and that it always answers a next
state. -/

namespace Sys2Proof.Machine

/-! ### The acceptance of a word, case by case (R98, R262, R273) -/

theorem present_of_accepts_of_decode_ok {w : Command} {s : State} {i : Instr} (ha : accepts s w = true)
    (hd : decode w = .ok i) : present w s = exec i s := by
  simp [present, ha, hd]

theorem present_of_accepts_of_decode_error {w : Command} {s : State} {e : Illegal} (ha : accepts s w = true)
    (hd : decode w = .error e) : present w s = .next (raise .illegalCommand w s) := by
  simp [present, ha, hd]

theorem present_of_not_accepts {w : Command} {s : State} (ha : accepts s w = false) : present w s = .next s := by
  simp [present, ha]

/-! ### The step, move by move (R20) -/

theorem step_of_moves_nil {s : State} (h : s.moves = []) : step s = .next s := by
  simp [step, h]

theorem step_of_moves_cons {s : State} {m : HostMove} {rest : List HostMove} (h : s.moves = m :: rest) :
    step s = hostMove m { s with moves := rest } := by
  simp [step, h]

/-! ### Every step answers a next state (R15, R98) -/

/-- Every arm of `exec` answers a next state: the faults of XFC-1 are next states with ERR set (R270). -/
theorem exec_answers_next (i : Instr) (s : State) : ∃ t, exec i s = .next t := by
  cases i <;> exact ⟨_, rfl⟩

theorem present_answers_next (w : Command) (s : State) : ∃ t, present w s = .next t := by
  cases ha : accepts s w with
  | false => exact ⟨s, present_of_not_accepts ha⟩
  | true =>
    cases hd : decode w with
    | error e => exact ⟨_, present_of_accepts_of_decode_error ha hd⟩
    | ok i =>
      rw [present_of_accepts_of_decode_ok ha hd]
      exact exec_answers_next i s

theorem hostMove_answers_next (m : HostMove) (s : State) : ∃ t, hostMove m s = .next t := by
  cases m with
  | command w => exact present_answers_next w s
  | readRegister n => exact ⟨_, rfl⟩
  | reset => exact ⟨_, rfl⟩

theorem step_answers_next (s : State) : ∃ t, step s = .next t := by
  cases hm : s.moves with
  | nil => exact ⟨s, step_of_moves_nil hm⟩
  | cons m rest =>
    rw [step_of_moves_cons hm]
    exact hostMove_answers_next m _

end Sys2Proof.Machine

namespace Sys2Proof.Proofs

open Sys2Proof.Machine

/-- Settles O6: the host's next move decides the step, and each kind of move answers a next state. -/
theorem everyStepAnswersNext : Obligations.EveryStepAnswersNext :=
  ⟨step_answers_next, fun _ => step_of_moves_nil⟩

end Sys2Proof.Proofs
end

/-! PROOF. The state statements (spec/10_state.md): how a command can end, said once (`exec_ends`), and from it what a command
writes, who writes the fault registers, and the invariant every step keeps; the register read port and the resets. -/

namespace Sys2Proof.Machine

/-! ### The two halves of the invariant -/

/-- The half of the invariant about values: PTR is a pixel index, V and T are within their capacities (R22, R27, R51). -/
structure InBounds (s : State) : Prop where
  ptr : s.ptr.toNat < 2304
  v : fitsV s.cfg s.v = true
  text : Memory.wf s = true

/-- The half of the invariant about faults: CAUSE and INFO name a fault exactly while ERR is set (R37, R38). -/
structure FaultNamed (s : State) : Prop where
  cause : s.cause.isSome = s.err
  info : s.err = false → s.info = 0

theorem inv_iff (s : State) : s.Inv ↔ InBounds s ∧ FaultNamed s :=
  ⟨fun ⟨hptr, hv, htext, hcause, hinfo⟩ => ⟨⟨hptr, hv, htext⟩, ⟨hcause, hinfo⟩⟩,
    fun ⟨hb, hf⟩ => ⟨hb.ptr, hb.v, hb.text, hf.cause, hf.info⟩⟩

theorem fitsV_zero (cfg : Config) : fitsV cfg 0 = true :=
  (fitsV_iff cfg 0).mpr fun _ _ => by positivity

theorem raise_inBounds (c : FaultCause) (w : Command) {s : State} (h : InBounds s) : InBounds (raise c w s) :=
  ⟨h.ptr, h.v, raise_memoryWf c w h.text⟩

theorem clearFault_inBounds {s : State} (h : InBounds s) : InBounds (clearFault s) :=
  ⟨h.ptr, h.v, clearFault_memoryWf h.text⟩

theorem softReset_inBounds (s : State) : InBounds (softReset s) :=
  ⟨by simp, fitsV_zero s.cfg, softReset_memoryWf s⟩

theorem hardReset_inBounds (s : State) : InBounds (hardReset s) :=
  ⟨by simp, fitsV_zero s.cfg, hardReset_memoryWf s⟩

theorem reset_inBounds : InBounds State.reset :=
  ⟨by simp [State.reset], fitsV_zero _, reset_memoryWf⟩

/-- The free values a fault leaves behind are drawn within the capacities (R272). -/
theorem scramble_inBounds (f : Footprint) {s : State} (h : InBounds s) : InBounds (scramble f s) where
  ptr := h.ptr
  v := by
    rw [scramble_v, scramble_cfg]
    split
    · exact drawV_fits _ _
    · exact h.v
  text := scramble_memoryWf f h.text

theorem raise_faultNamed (c : FaultCause) (w : Command) (s : State) : FaultNamed (raise c w s) :=
  ⟨rfl, nofun⟩

theorem faultNamed_of_cleared {s : State} (herr : s.err = false) (hcause : s.cause = none) (hinfo : s.info = 0) :
    FaultNamed s :=
  ⟨by rw [herr, hcause]; rfl, fun _ => hinfo⟩

/-! ### What a command that completes may change -/

/-- From `s` to `t` only state changed that command `i` may write, none of the fault registers and none of the host's side, and
within bounds. It is reflexive and transitive, so a procedure keeps it when its parts do. -/
structure Completes (i : Instr) (s t : State) : Prop where
  same : t = { s with v := t.v, r := t.r, ptr := t.ptr, bitmap := t.bitmap, text := t.text, ne := t.ne }
  v : writesV i = false → t.v = s.v
  r : writesR i = false → t.r = s.r
  ptr : writesPtr i = false → t.ptr = s.ptr
  bitmap : writesBitmap i = false → t.bitmap = s.bitmap
  text : writesText i = false → t.text = s.text
  ne : writesNe i = false → t.ne = s.ne
  inBounds : InBounds s → InBounds t

namespace Completes

variable {i : Instr} {s t u : State}

theorem refl (i : Instr) (s : State) : Completes i s s where
  same := rfl
  v _ := rfl
  r _ := rfl
  ptr _ := rfl
  bitmap _ := rfl
  text _ := rfl
  ne _ := rfl
  inBounds := id

theorem trans (hst : Completes i s t) (htu : Completes i t u) : Completes i s u where
  same := by rw [htu.same, hst.same]
  v hw := (htu.v hw).trans (hst.v hw)
  r hw := (htu.r hw).trans (hst.r hw)
  ptr hw := (htu.ptr hw).trans (hst.ptr hw)
  bitmap hw := (htu.bitmap hw).trans (hst.bitmap hw)
  text hw := (htu.text hw).trans (hst.text hw)
  ne hw := (htu.ne hw).trans (hst.ne hw)
  inBounds hs := htu.inBounds (hst.inBounds hs)

theorem err (h : Completes i s t) : t.err = s.err := by rw [h.same]
theorem cause (h : Completes i s t) : t.cause = s.cause := by rw [h.same]
theorem info (h : Completes i s t) : t.info = s.info := by rw [h.same]
theorem cfg (h : Completes i s t) : t.cfg = s.cfg := by rw [h.same]
theorem moves (h : Completes i s t) : t.moves = s.moves := by rw [h.same]
theorem readData (h : Completes i s t) : t.readData = s.readData := by rw [h.same]
theorem draws (h : Completes i s t) : t.draws = s.draws := by rw [h.same]

theorem faultNamed (h : Completes i s t) (hs : FaultNamed s) : FaultNamed t :=
  ⟨by rw [h.cause, h.err, hs.cause], fun herr => by rw [h.info, hs.info (h.err ▸ herr)]⟩

/-! One lemma for each register or memory a command may write. -/

theorem setV {v : Nat} (hw : writesV i = true) (hfit : fitsV s.cfg s.v = true → fitsV s.cfg v = true) :
    Completes i s { s with v := v } :=
  { refl i s with
    same := rfl
    v := fun h => by simp [hw] at h
    inBounds := fun hs => ⟨hs.ptr, hfit hs.v, hs.text⟩ }

theorem setR {r : BitVec 16} (hw : writesR i = true) : Completes i s { s with r := r } :=
  { refl i s with
    same := rfl
    r := fun h => by simp [hw] at h
    inBounds := fun hs => ⟨hs.ptr, hs.v, hs.text⟩ }

theorem setPtr {p : BitVec 12} (hw : writesPtr i = true) (hp : p.toNat < 2304) : Completes i s { s with ptr := p } :=
  { refl i s with
    same := rfl
    ptr := fun h => by simp [hw] at h
    inBounds := fun hs => ⟨hp, hs.v, hs.text⟩ }

theorem setBitmap {b : Bitmap} (hw : writesBitmap i = true) : Completes i s { s with bitmap := b } :=
  { refl i s with
    same := rfl
    bitmap := fun h => by simp [hw] at h
    inBounds := fun hs => ⟨hs.ptr, hs.v, hs.text⟩ }

theorem setText {txt : List Byte} (hw : writesText i = true)
    (hwf : Memory.wf s = true → Memory.wf { s with text := txt } = true) : Completes i s { s with text := txt } :=
  { refl i s with
    same := rfl
    text := fun h => by simp [hw] at h
    inBounds := fun hs => ⟨hs.ptr, hs.v, hwf hs.text⟩ }

theorem setNe {ne : Bool} (hw : writesNe i = true) : Completes i s { s with ne := ne } :=
  { refl i s with
    same := rfl
    ne := fun h => by simp [hw] at h
    inBounds := fun hs => ⟨hs.ptr, hs.v, hs.text⟩ }

theorem clearText (hw : writesText i = true) : Completes i s { s with text := [] } :=
  setText hw (memoryWf_of_text rfl (Nat.zero_le _))

end Completes

/-! ### The procedures, each as a completion of any command that may write what it writes -/

section Procedures

variable {i : Instr} {s t : State}

/-- A loop keeps what each of its rounds keeps. -/
theorem foldlM_completes {α : Type} {f : State → α → Except FaultCause State}
    (hf : ∀ (a : α) (s t : State), f s a = .ok t → Completes i s t) {as : List α} (h : as.foldlM f s = .ok t) :
    Completes i s t := by
  induction as generalizing s with
  | nil => cases h; exact .refl i _
  | cons a as ih =>
    rw [List.foldlM_cons] at h
    obtain ⟨b, hb, h⟩ := bind_eq_ok.mp h
    exact (hf a s b hb).trans (ih h)

theorem writeV_completes {v : Nat} (hv : writesV i = true) (h : writeV v s = .ok t) : Completes i s t := by
  obtain ⟨hfit, rfl⟩ := writeV_ok.mp h
  exact .setV hv fun _ => hfit

theorem divideV_completes {d : Nat} (hv : writesV i = true) (hr : writesR i = true) (h : divideV d s = .ok t) :
    Completes i s t := by
  obtain ⟨-, rfl⟩ := divideV_ok.mp h
  exact (Completes.setV hv (fitsV_mono (Nat.div_le_self s.v d))).trans (.setR hr)

theorem pop_completes {n : Nat} (hv : writesV i = true) (hr : writesR i = true) (h : pop n s = .ok t) :
    Completes i s t := by
  have hle := pop_le h
  obtain ⟨r, row, -, -, -, rfl⟩ := pop_ok h
  exact (Completes.setV hv (fitsV_mono hle)).trans (.setR hr)

theorem push_completes {n r : Nat} (hv : writesV i = true) (h : push n r s = .ok t) : Completes i s t := by
  obtain ⟨row, -, -, hfit, rfl⟩ := push_ok h
  exact .setV hv fun _ => hfit

/-- The pointer's advance stays on the grid: it wraps from 2303 to 0 (R171). -/
theorem advancePtr_lt (p : BitVec 12) : (advancePtr p).toNat < 2304 := by
  rw [advancePtr, BitVec.toNat_ofNat]
  omega

theorem streamPixel_completes (p : Bool) (hb : writesBitmap i = true) (hp : writesPtr i = true) :
    Completes i s (streamPixel p s) :=
  (Completes.setPtr hp (advancePtr_lt s.ptr)).trans (.setBitmap hb)

theorem readText_completes {n : Nat} (hr : writesR i = true) (h : readText n s = .ok t) : Completes i s t := by
  obtain ⟨c, -, rfl⟩ := readText_ok.mp h
  exact .setR hr

theorem foldCharacter_completes {ch : Byte} (hv : writesV i = true) (hn : writesNe i = true)
    (h : foldCharacter ch s = .ok t) : Completes i s t := by
  obtain ⟨-, hfit, rfl⟩ | ⟨-, rfl⟩ := foldCharacter_ok.mp h
  · exact (Completes.setV hv fun _ => hfit).trans (.setNe hn)
  · exact .setNe hn

/-! The text (R158 to R160). -/

theorem txrev_completes (ht : writesText i = true) : Completes i s (txrev s) :=
  .setText ht txrev_memoryWf

theorem txdig_completes (hv : writesV i = true) (hr : writesR i = true) (ht : writesText i = true)
    (h : txdig s = .ok t) : Completes i s t := by
  have hwf := txdig_memoryWf h
  obtain ⟨-, rfl⟩ := txdig_ok.mp h
  exact (Completes.setV hv (fitsV_mono (Nat.div_le_self s.v 94))).trans
    ((Completes.setR hr).trans (.setText ht fun _ => hwf))

theorem digitLoop_completes {fuel : Nat} (hv : writesV i = true) (hr : writesR i = true) (ht : writesText i = true)
    (h : digitLoop fuel s = .ok t) : Completes i s t := by
  induction fuel generalizing s with
  | zero => cases h; exact .refl i _
  | succ fuel ih =>
    unfold digitLoop at h
    split at h
    · cases h; exact .refl i _
    · obtain ⟨a, ha, h⟩ := bind_eq_ok.mp h
      exact (txdig_completes hv hr ht ha).trans (ih h)

theorem txout_completes (hv : writesV i = true) (hr : writesR i = true) (ht : writesText i = true)
    (h : txout s = .ok t) : Completes i s t := by
  obtain ⟨a, hdigits, h⟩ := bind_eq_ok.mp h
  refine (Completes.clearText ht).trans ((digitLoop_completes hv hr ht hdigits).trans ?_)
  split at h
  · obtain ⟨b, hdigit, h⟩ := bind_eq_ok.mp h
    cases h
    exact (txdig_completes hv hr ht hdigit).trans (txrev_completes ht)
  · cases h
    exact txrev_completes ht

/-! The quad-tree (R193 to R202). -/

theorem decodeLeaf_completes {k x y : Nat} (hv : writesV i = true) (hr : writesR i = true)
    (hb : writesBitmap i = true) (h : decodeLeaf k x y s = .ok t) : Completes i s t := by
  induction k generalizing x y s t with
  | zero =>
    obtain ⟨a, ha, h⟩ := bind_eq_ok.mp h
    cases h
    exact (pop_completes hv hr ha).trans (.setBitmap hb)
  | succ k ih =>
    obtain ⟨a, hTL, h⟩ := bind_eq_ok.mp h
    obtain ⟨b, hTR, h⟩ := bind_eq_ok.mp h
    obtain ⟨c, hBL, hBR⟩ := bind_eq_ok.mp h
    exact (ih hTL).trans ((ih hTR).trans ((ih hBL).trans (ih hBR)))

theorem decodeRegion_completes {k x y : Nat} (hv : writesV i = true) (hr : writesR i = true)
    (hb : writesBitmap i = true) (h : decodeRegion k x y s = .ok t) : Completes i s t := by
  induction k generalizing x y s t with
  | zero =>
    obtain ⟨a, ha, h⟩ := bind_eq_ok.mp h
    refine (pop_completes hv hr ha).trans ?_
    split at h
    · cases h; exact .refl i _
    · split at h
      · exact decodeLeaf_completes hv hr hb h
      · cases h
  | succ k ih =>
    obtain ⟨a, ha, h⟩ := bind_eq_ok.mp h
    refine (pop_completes hv hr ha).trans ?_
    split at h
    · cases h; exact .refl i _
    · split at h
      · exact decodeLeaf_completes hv hr hb h
      · obtain ⟨b, hTL, h⟩ := bind_eq_ok.mp h
        obtain ⟨c, hTR, h⟩ := bind_eq_ok.mp h
        obtain ⟨d, hBL, hBR⟩ := bind_eq_ok.mp h
        exact (ih hTL).trans ((ih hTR).trans ((ih hBL).trans (ih hBR)))

theorem encodeLeaf_completes {k x y : Nat} (hv : writesV i = true) (h : encodeLeaf k x y s = .ok t) :
    Completes i s t := by
  induction k generalizing x y s t with
  | zero => exact push_completes hv h
  | succ k ih =>
    obtain ⟨a, hBR, h⟩ := bind_eq_ok.mp h
    obtain ⟨b, hBL, h⟩ := bind_eq_ok.mp h
    obtain ⟨c, hTR, hTL⟩ := bind_eq_ok.mp h
    exact (ih hBR).trans ((ih hBL).trans ((ih hTR).trans (ih hTL)))

theorem encodeRegion_completes {k x y : Nat} (hv : writesV i = true) (h : encodeRegion k x y s = .ok t) :
    Completes i s t := by
  induction k generalizing x y s t with
  | zero =>
    unfold encodeRegion at h
    split at h
    · exact push_completes hv h
    · obtain ⟨a, ha, h⟩ := bind_eq_ok.mp h
      exact (encodeLeaf_completes hv ha).trans (push_completes hv h)
  | succ k ih =>
    unfold encodeRegion at h
    split at h
    · exact push_completes hv h
    · split at h
      · obtain ⟨a, ha, h⟩ := bind_eq_ok.mp h
        exact (encodeLeaf_completes hv ha).trans (push_completes hv h)
      · obtain ⟨a, hBR, h⟩ := bind_eq_ok.mp h
        obtain ⟨b, hBL, h⟩ := bind_eq_ok.mp h
        obtain ⟨c, hTR, h⟩ := bind_eq_ok.mp h
        obtain ⟨d, hTL, h⟩ := bind_eq_ok.mp h
        exact (ih hBR).trans ((ih hBL).trans ((ih hTR).trans ((ih hTL).trans (push_completes hv h))))

/-! The filter and the whole image (R221, R222, R237, R239). -/

theorem filterEnc_completes (hb : writesBitmap i = true) (h : filterEnc s = .ok t) : Completes i s t := by
  rw [filterEnc_frame h]
  exact .setBitmap hb

theorem filterDec_completes (hb : writesBitmap i = true) (h : filterDec s = .ok t) : Completes i s t := by
  rw [filterDec_frame h]
  exact .setBitmap hb

theorem decodeImage_completes (hv : writesV i = true) (hr : writesR i = true) (hb : writesBitmap i = true)
    (h : decodeImage s = .ok t) : Completes i s t := by
  obtain ⟨a, hregions, hfilter⟩ := bind_eq_ok.mp h
  have hclear : Completes i s (clearBitmap s) := .setBitmap hb
  have hdecode : Completes i (clearBitmap s) a :=
    foldlM_completes (fun _ _ _ => decodeRegion_completes hv hr hb) hregions
  exact hclear.trans (hdecode.trans (filterDec_completes hb hfilter))

theorem encodeImage_completes (hv : writesV i = true) (hr : writesR i = true) (hb : writesBitmap i = true)
    (ht : writesText i = true) (h : encodeImage s = .ok t) : Completes i s t := by
  obtain ⟨a, hfilter, h⟩ := bind_eq_ok.mp h
  obtain ⟨b, hregions, htext⟩ := bind_eq_ok.mp h
  have hclear : Completes i a { a with v := 0 } := .setV hv fun _ => fitsV_zero _
  have hencode : Completes i { a with v := 0 } b :=
    foldlM_completes (fun _ _ _ => encodeRegion_completes hv) hregions
  exact (filterEnc_completes hb hfilter).trans (hclear.trans (hencode.trans (txout_completes hv hr ht htext)))

end Procedures

/-! ### How a command can end -/

/-- The state command `i` may write and leave unspecified when a fault abandons it (R272). -/
def mayWrite (i : Instr) : Footprint :=
  { v := writesV i, r := writesR i, bitmap := writesBitmap i, text := writesText i }

/-- Every way command `i`, run on `s`, can end. -/
inductive Ends (i : Instr) (s : State) : State → Prop where
  /-- It completes. -/
  | completes {t : State} (h : Completes i s t) : Ends i s t
  /-- A precise fault (R271). -/
  | faults (c : FaultCause) : Ends i s (raise c (encode i) s)
  /-- A fault inside a command of many steps, whose writes it leaves unspecified (R272). -/
  | faultsInside (c : FaultCause) (hm : isMacro i = true) : Ends i s (raise c (encode i) (scramble (mayWrite i) s))
  /-- ECLR (R251). -/
  | clears (hi : i = .eclr) : Ends i s (clearFault s)
  /-- SRST (R252). -/
  | resets (hi : i = .srst) : Ends i s (softReset s)

section CommandEnds

variable {i : Instr} {s t : State}

theorem ends_settle {p : Proc} (hp : ∀ t, p s = .ok t → Completes i s t) : Ends i s (settle (encode i) p s) := by
  obtain ⟨t, ht, he⟩ | ⟨c, -, he⟩ := settle_cases (encode i) p s
  · exact he ▸ .completes (hp t ht)
  · exact he ▸ .faults c

theorem ends_settleMacro {p : Proc} (hm : isMacro i = true) (hp : ∀ t, p s = .ok t → Completes i s t) :
    Ends i s (settleMacro (encode i) (mayWrite i) p s) := by
  obtain ⟨t, ht, he⟩ | ⟨c, -, he⟩ := settleMacro_cases (encode i) (mayWrite i) p s
  · exact he ▸ .completes (hp t ht)
  · exact he ▸ .faultsInside c hm

theorem ends_checked {body : State → State} (hbody : i.wellFormed = true → Ends i s (body s)) :
    Ends i s (checked i body s) := by
  cases hi : i.wellFormed with
  | true => rw [checked_of_wellFormed hi]; exact hbody hi
  | false => rw [checked_of_not_wellFormed hi]; exact .faults _

/-- The pixel a legal BPTR names has an index below 2304 (R172). -/
theorem ptr_lt_of_bptr_wellFormed {x y : Byte} (h : (Instr.bptr x y).wellFormed = true) :
    (BitVec.ofNat 12 (rasterIndex x.toNat y.toNat)).toNat < 2304 := by
  have hxy : coordinateOk x y = true := by
    by_contra hn
    simp [Instr.wellFormed, Instr.violation, hn] at h
  simp only [coordinateOk, Bool.and_eq_true, decide_eq_true_eq] at hxy
  rw [BitVec.toNat_ofNat, rasterIndex]
  exact lt_of_le_of_lt (Nat.mod_le _ _) (by omega)

/-- Each arm of `exec`, with the way it can end. -/
theorem exec_next_ends (i : Instr) (s : State) : ∃ t, exec i s = .next t ∧ Ends i s t := by
  cases i with
  | nop => exact ⟨_, rfl, .completes (.refl _ s)⟩
  | vclr => exact ⟨_, rfl, .completes (.setV rfl fun _ => fitsV_zero s.cfg)⟩
  | vmad m add => exact ⟨_, rfl, ends_settle fun _ => writeV_completes rfl⟩
  | vdiv d => exact ⟨_, rfl, ends_settle fun _ => divideV_completes rfl rfl⟩
  | vrd n => exact ⟨_, rfl, .completes (.setR rfl)⟩
  | pop n => exact ⟨_, rfl, ends_checked fun _ => ends_settle fun _ => pop_completes rfl rfl⟩
  | push n r => exact ⟨_, rfl, ends_checked fun _ => ends_settle fun _ => push_completes rfl⟩
  | txbeg =>
    have hv : Completes .txbeg s { s with v := 0 } := .setV rfl fun _ => fitsV_zero s.cfg
    exact ⟨_, rfl, .completes (hv.trans ((Completes.clearText rfl).trans (.setNe rfl)))⟩
  | txin ch => exact ⟨_, rfl, ends_settle fun _ => foldCharacter_completes rfl rfl⟩
  | txdig => exact ⟨_, rfl, ends_settle fun _ => txdig_completes rfl rfl rfl⟩
  | txrev => exact ⟨_, rfl, .completes (txrev_completes rfl)⟩
  | txout => exact ⟨_, rfl, ends_settleMacro rfl fun _ => txout_completes rfl rfl rfl⟩
  | trd n => exact ⟨_, rfl, ends_settle fun _ => readText_completes rfl⟩
  | bclr => exact ⟨_, rfl, .completes (.setBitmap rfl)⟩
  | bptr x y => exact ⟨_, rfl, ends_checked fun hi => .completes (.setPtr rfl (ptr_lt_of_bptr_wellFormed hi))⟩
  | bbit v => exact ⟨_, rfl, .completes (streamPixel_completes _ rfl rfl)⟩
  | brgb red green blue => exact ⟨_, rfl, .completes (streamPixel_completes _ rfl rfl)⟩
  | brd => exact ⟨_, rfl, .completes ((Completes.setPtr rfl (advancePtr_lt s.ptr)).trans (.setR rfl))⟩
  | bset x y v => exact ⟨_, rfl, ends_checked fun _ => .completes (.setBitmap rfl)⟩
  | bget x y => exact ⟨_, rfl, ends_checked fun _ => .completes (.setR rfl)⟩
  | dleaf x y l =>
    exact ⟨_, rfl, ends_checked fun _ => ends_settleMacro rfl fun _ => decodeLeaf_completes rfl rfl rfl⟩
  | drg x y l =>
    exact ⟨_, rfl, ends_checked fun _ => ends_settleMacro rfl fun _ => decodeRegion_completes rfl rfl rfl⟩
  | eleaf x y l => exact ⟨_, rfl, ends_checked fun _ => ends_settleMacro rfl fun _ => encodeLeaf_completes rfl⟩
  | erg x y l => exact ⟨_, rfl, ends_checked fun _ => ends_settleMacro rfl fun _ => encodeRegion_completes rfl⟩
  | fenc => exact ⟨_, rfl, ends_settleMacro rfl fun _ => filterEnc_completes rfl⟩
  | fdec => exact ⟨_, rfl, ends_settleMacro rfl fun _ => filterDec_completes rfl⟩
  | dec => exact ⟨_, rfl, ends_settleMacro rfl fun _ => decodeImage_completes rfl rfl rfl⟩
  | enc w h =>
    refine ⟨_, rfl, ?_⟩
    split
    · exact .faults _
    · exact ends_settleMacro rfl fun _ => encodeImage_completes rfl rfl rfl rfl
  | hdr =>
    refine ⟨_, rfl, ?_⟩
    split
    · exact .completes (.setR rfl)
    · exact .faults _
  | eclr => exact ⟨_, rfl, .clears rfl⟩
  | srst => exact ⟨_, rfl, .resets rfl⟩

/-- Everything a command can do. -/
theorem exec_ends (h : exec i s = .next t) : Ends i s t := by
  obtain ⟨t', ht', he⟩ := exec_next_ends i s
  cases ht'.symm.trans h
  exact he

/-! ### What follows from the way a command ends -/

/-- A piece of state a fault inside the command may leave unspecified is one the command may write (R272). -/
theorem scramble_mayWrite (i : Instr) (s : State) :
    (writesV i = false → (scramble (mayWrite i) s).v = s.v) ∧ (writesR i = false → (scramble (mayWrite i) s).r = s.r) ∧
    (writesBitmap i = false → (scramble (mayWrite i) s).bitmap = s.bitmap) ∧
    (writesText i = false → (scramble (mayWrite i) s).text = s.text) := by
  refine ⟨?_, ?_, ?_, ?_⟩ <;> intro hw <;> simp [mayWrite, hw]

theorem Ends.inv (h : Ends i s t) (hs : s.Inv) : t.Inv := by
  obtain ⟨hb, hf⟩ := (inv_iff s).mp hs
  refine (inv_iff t).mpr ?_
  cases h with
  | completes h => exact ⟨h.inBounds hb, h.faultNamed hf⟩
  | faults c => exact ⟨raise_inBounds c _ hb, raise_faultNamed c _ s⟩
  | faultsInside c => exact ⟨raise_inBounds c _ (scramble_inBounds _ hb), raise_faultNamed c _ _⟩
  | clears => exact ⟨clearFault_inBounds hb, faultNamed_of_cleared rfl rfl rfl⟩
  | resets => exact ⟨softReset_inBounds s, faultNamed_of_cleared rfl rfl rfl⟩

end CommandEnds

/-! ### The invariant, from the command to the step -/

theorem raise_inv (c : FaultCause) (w : Command) {s : State} (h : s.Inv) : (raise c w s).Inv :=
  (inv_iff _).mpr ⟨raise_inBounds c w ((inv_iff s).mp h).1, raise_faultNamed c w s⟩

theorem hardReset_inv (s : State) : (hardReset s).Inv :=
  (inv_iff _).mpr ⟨hardReset_inBounds s, faultNamed_of_cleared rfl rfl rfl⟩

theorem reset_inv : State.reset.Inv :=
  (inv_iff _).mpr ⟨reset_inBounds, faultNamed_of_cleared rfl rfl rfl⟩

/-- A word the host presents is dropped, is ILLEGAL_COMMAND, or runs its command (R98, R273). -/
theorem present_keeps_inv {w : Command} {s t : State} (hs : s.Inv) (h : present w s = .next t) : t.Inv := by
  cases ha : accepts s w with
  | false =>
    cases (present_of_not_accepts ha).symm.trans h
    exact hs
  | true =>
    cases hd : decode w with
    | error e =>
      cases (present_of_accepts_of_decode_error ha hd).symm.trans h
      exact raise_inv _ w hs
    | ok i => exact (exec_ends ((present_of_accepts_of_decode_ok ha hd).symm.trans h)).inv hs

theorem hostMove_keeps_inv {m : HostMove} {s t : State} (hs : s.Inv) (h : hostMove m s = .next t) : t.Inv := by
  cases m with
  | command w => exact present_keeps_inv hs h
  | readRegister n => cases h; exact hs
  | reset => cases h; exact hardReset_inv s

theorem step_keeps_inv {s t : State} (hs : s.Inv) (h : step s = .next t) : t.Inv := by
  cases hm : s.moves with
  | nil =>
    cases (step_of_moves_nil hm).symm.trans h
    exact hs
  | cons m rest =>
    have hs' : ({ s with moves := rest } : State).Inv := hs
    exact hostMove_keeps_inv hs' ((step_of_moves_cons hm).symm.trans h)

/-! ### The acceptance of a word and the register read port (R273, R34 to R40) -/

/-- While no fault is recorded every word is accepted (R273). -/
theorem accepts_of_not_err {s : State} (h : s.err = false) (w : Command) : accepts s w = true := by
  simp [accepts, h]

/-- STATUS as a number: ERR in bit 1, Z in bit 2, NE in bit 3, BUSY and the rest 0 (R35). -/
theorem statusWord_eq (s : State) :
    statusWord s = BitVec.ofNat 32 ((if s.err then 2 else 0) + (if s.v = 0 then 4 else 0) + (if s.ne then 8 else 0)) := by
  have hbits : ∀ ne z err : Bool,
      (0#28 ++ BitVec.ofBool ne) ++ BitVec.ofBool z ++ BitVec.ofBool err ++ BitVec.ofBool false =
        BitVec.ofNat 32 ((if err then 2 else 0) + (if z then 4 else 0) + (if ne then 8 else 0)) := by decide
  simpa [statusWord, busyFlag, zeroFlag] using hbits s.ne (zeroFlag s) s.err

/-- Register 0x2 shows the code of the recorded cause (R37, R261). -/
theorem readRegister_cause_toNat (s : State) : (readRegister s 0x2).toNat = (causeCode s.cause).toNat :=
  BitVec.toNat_setWidth_of_le (by decide)

/-- A number not in the register map reads 0 (R34). -/
theorem readRegister_unmapped (s : State) {n : Nat} (h : n = 0x7 ∨ 0xC ≤ n) : readRegister s n = 0 := by
  obtain rfl | hn := h
  · rfl
  · obtain ⟨k, rfl⟩ := Nat.exists_eq_add_of_le' hn
    rfl

end Sys2Proof.Machine

namespace Sys2Proof.Proofs

open Sys2Proof.Machine

/-- Settles O13: the move decides the step, and a command keeps the invariant however it ends (`Ends.inv`). -/
theorem stepKeepsInvariant : Obligations.StepKeepsInvariant :=
  fun _ _ => step_keeps_inv

/-- Settles O15, case by case on how the command ends. -/
theorem commandsWriteOnlyTheirState : Obligations.CommandsWriteOnlyTheirState := by
  intro i s t h
  cases exec_ends h with
  | completes h =>
    exact ⟨h.v, h.r, h.ptr, fun hw x y => by rw [h.bitmap hw], h.text, h.ne, h.cfg, h.moves, h.readData,
      fun _ => h.draws⟩
  | faults c => simp
  | faultsInside c hm =>
    obtain ⟨hv, hr, hb, ht⟩ := scramble_mayWrite i s
    exact ⟨hv, hr, fun _ => rfl, fun hw x y => congrArg (pixelAt · x y) (hb hw), ht, fun _ => rfl, rfl, rfl, rfl,
      fun hn => by simp [hm] at hn⟩
  | clears hi => simp
  | resets hi => subst hi; simp [writesV, writesR, writesPtr, writesText, writesNe]

/-- Settles O16, case by case on how the command ends. -/
theorem faultRegistersWrittenOnlyByFaultsAndClears : Obligations.FaultRegistersWrittenOnlyByFaultsAndClears := by
  intro i s t h
  cases exec_ends h with
  | completes h => exact .inl ⟨h.err, h.cause, h.info⟩
  | faults c => exact .inr (.inl ⟨c, rfl, rfl, rfl⟩)
  | faultsInside c => exact .inr (.inl ⟨c, rfl, rfl, rfl⟩)
  | clears hi => exact .inr (.inr ⟨.inl hi, rfl, rfl, rfl⟩)
  | resets hi => exact .inr (.inr ⟨.inr hi, rfl, rfl, rfl⟩)

/-- Settles O5: a machine that is not faulted accepts every word. -/
theorem stepRunsDecodedCommand : Obligations.StepRunsDecodedCommand := by
  intro s w rest hm
  have hstep : step s = present w { s with moves := rest } := step_of_moves_cons hm
  refine ⟨hstep, fun herr i hd => ?_⟩
  rw [hstep]
  exact present_of_accepts_of_decode_ok (accepts_of_not_err herr w) hd

/-- Settles O9, register by register. -/
theorem registerReadPort : Obligations.RegisterReadPort := by
  refine ⟨fun s n rest hm => step_of_moves_cons hm, fun s => ?_⟩
  have hr : (readRegister s 0x4).toNat = s.r.toNat := BitVec.toNat_setWidth_of_le (by decide)
  have hptr : (readRegister s 0x5).toNat = s.ptr.toNat := BitVec.toNat_setWidth_of_le (by decide)
  have htlen : (readRegister s 0x6).toNat = s.text.length % 2 ^ 32 := BitVec.toNat_ofNat _ _
  refine ⟨rfl, statusWord_eq s, ?_, rfl, hr, hptr, htlen, rfl, rfl, rfl, rfl, fun n => readRegister_unmapped s⟩
  rw [readRegister_cause_toNat]
  cases s.cause with
  | none => rfl
  | some c => cases c <;> rfl

/-- Settles O10: the free bitmap is the one of the current draw. -/
theorem hardwareResetClearsRegisters : Obligations.HardwareResetClearsRegisters :=
  fun s _ hm => ⟨Config.freeBitmap s.draws, step_of_moves_cons hm⟩

/-- Settles O11: V is 0 and ERR and NE are clear, so STATUS shows its Z bit alone. -/
theorem resetStateRegisters : Obligations.ResetStateRegisters :=
  ⟨rfl, rfl, rfl, rfl, rfl, rfl, rfl, rfl, statusWord_eq State.reset⟩

/-- Settles O12: 0 is a pixel index and fits every capacity, and no fault is recorded. -/
theorem resetMeetsInvariant : Obligations.ResetMeetsInvariant :=
  reset_inv

end Sys2Proof.Proofs

/-! PROOF. The memory statements (spec/20_memory.md): the configuration is constant (R67), and a region operand is checked before
any state is touched (R63). -/

namespace Sys2Proof.Machine

/-! ### The configuration is constant (R67, R301) -/

theorem Ends.cfg {i : Instr} {s t : State} (h : Ends i s t) : t.cfg = s.cfg := by
  cases h with
  | completes h => exact h.cfg
  | faults c => exact raise_cfg c _ s
  | faultsInside c => rw [raise_cfg, scramble_cfg]
  | clears => exact clearFault_cfg s
  | resets => exact softReset_cfg s

theorem present_keeps_cfg {w : Command} {s t : State} (h : present w s = .next t) : t.cfg = s.cfg := by
  cases ha : accepts s w with
  | false =>
    cases (present_of_not_accepts ha).symm.trans h
    rfl
  | true =>
    cases hd : decode w with
    | error e =>
      cases (present_of_accepts_of_decode_error ha hd).symm.trans h
      exact raise_cfg _ w s
    | ok i => exact (exec_ends ((present_of_accepts_of_decode_ok ha hd).symm.trans h)).cfg

theorem hostMove_keeps_cfg {m : HostMove} {s t : State} (h : hostMove m s = .next t) : t.cfg = s.cfg := by
  cases m with
  | command w => exact present_keeps_cfg h
  | readRegister n => cases h; rfl
  | reset => cases h; exact hardReset_cfg s

theorem step_keeps_cfg {s t : State} (h : step s = .next t) : t.cfg = s.cfg := by
  cases hm : s.moves with
  | nil =>
    cases (step_of_moves_nil hm).symm.trans h
    rfl
  | cons m rest =>
    have hcfg : t.cfg = ({ s with moves := rest } : State).cfg :=
      hostMove_keeps_cfg ((step_of_moves_cons hm).symm.trans h)
    exact hcfg

/-! ### The word of a command as a number (R90) -/

/-- Appending a byte shifts a number up by eight bits and adds the byte. -/
theorem append_byte_toNat {n : Nat} (u : BitVec n) (c : Byte) : (u ++ c).toNat = u.toNat * 2 ^ 8 + c.toNat := by
  rw [BitVec.toNat_append, ← Nat.shiftLeft_add_eq_or_of_lt c.isLt, Nat.shiftLeft_eq]

theorem packWord_eq_ofNat (op a b c : Byte) :
    packWord op a b c = BitVec.ofNat 32 (op.toNat * 2 ^ 24 + a.toNat * 65536 + b.toNat * 256 + c.toNat) := by
  apply BitVec.eq_of_toNat_eq
  rw [packWord, append_byte_toNat, append_byte_toNat, append_byte_toNat, BitVec.toNat_ofNat]
  omega

/-- The word of a region command: its level fills the low bits of the last byte (R91, R99). -/
theorem packWord_level (op x y : Byte) (l : BitVec 2) :
    packWord op x y (l.setWidth 8) =
      BitVec.ofNat 32 (op.toNat * 2 ^ 24 + x.toNat * 65536 + y.toNat * 256 + l.toNat) := by
  rw [packWord_eq_ofNat, BitVec.toNat_setWidth_of_le (by decide)]

/-! ### Operands out of range (R93, R262) -/

/-- A command with an operand out of range is a precise ILLEGAL_COMMAND; the commands whose operands have no range are always
well-formed. -/
theorem exec_of_not_wellFormed {i : Instr} (h : i.wellFormed = false) (s : State) :
    exec i s = .next (raise .illegalCommand (encode i) s) := by
  cases i with
  | pop | push | bptr | bset | bget | dleaf | drg | eleaf | erg =>
    exact congrArg Host.Outcome.next (checked_of_not_wellFormed h)
  | _ => cases h

theorem regionOk_iff (x y : Byte) (l : BitVec 2) : regionOk x y l = true ↔
    x.toNat % (16 / 2 ^ l.toNat) = 0 ∧ y.toNat % (16 / 2 ^ l.toNat) = 0 ∧
      x.toNat + 16 / 2 ^ l.toNat ≤ 48 ∧ y.toNat + 16 / 2 ^ l.toNat ≤ 48 := by
  simp only [regionOk, Bool.and_eq_true, decide_eq_true_eq, and_assoc]
  rfl

/-- The four region commands have one range check (R190). -/
theorem wellFormed_of_region {i : Instr} {x y : Byte} {l : BitVec 2}
    (hi : i = .dleaf x y l ∨ i = .drg x y l ∨ i = .eleaf x y l ∨ i = .erg x y l) :
    i.wellFormed = regionOk x y l := by
  obtain rfl | rfl | rfl | rfl := hi <;> cases h : regionOk x y l <;> simp [Instr.wellFormed, Instr.violation, h]

end Sys2Proof.Machine

namespace Sys2Proof.Proofs

open Sys2Proof.Machine

/-- Settles O14: no way a command can end touches the configuration (`Ends.cfg`), and no other move of the host does. -/
theorem stepKeepsConfiguration : Obligations.StepKeepsConfiguration :=
  fun _ _ => step_keeps_cfg

/-- Settles O45: the four words are one format, and a bad region makes each of the four commands ill-formed. -/
theorem regionOperandsAreChecked : Obligations.RegionOperandsAreChecked := by
  intro x y l s
  refine ⟨packWord_level 0x40#8 x y l, packWord_level 0x41#8 x y l, packWord_level 0x42#8 x y l,
    packWord_level 0x43#8 x y l, fun hbad i hi => ?_⟩
  have hregion : regionOk x y l = false := Bool.eq_false_iff.mpr (mt (regionOk_iff x y l).mp hbad)
  exact exec_of_not_wellFormed ((wellFormed_of_region hi).trans hregion) s

end Sys2Proof.Proofs

/-! PROOF. The encoding statements (spec/30_encoding.md): a word is its fields, the row matching is the encoder read backwards,
and the masks of the table select exactly the words a row matches. -/

namespace Sys2Proof

/-! ### The fields of a packed word (R90) -/

theorem extractLsb'_append_byte {n : Nat} (u : BitVec n) (c : Byte) (start len : Nat) :
    (u ++ c).extractLsb' (start + 8) len = u.extractLsb' start len :=
  BitVec.extractLsb'_append_eq_of_le (Nat.le_add_left 8 start)

@[simp] theorem opField_packWord (op a b c : Byte) : opField (packWord op a b c) = op :=
  calc (op ++ a ++ b ++ c).extractLsb' (16 + 8) 8
    _ = (op ++ a ++ b).extractLsb' (8 + 8) 8 := extractLsb'_append_byte _ c 16 8
    _ = (op ++ a).extractLsb' 8 8 := extractLsb'_append_byte _ b 8 8
    _ = op := BitVec.extractLsb'_append_eq_left

@[simp] theorem aField_packWord (op a b c : Byte) : aField (packWord op a b c) = a :=
  calc (op ++ a ++ b ++ c).extractLsb' (8 + 8) 8
    _ = (op ++ a ++ b).extractLsb' (0 + 8) 8 := extractLsb'_append_byte _ c 8 8
    _ = (op ++ a).extractLsb' 0 8 := extractLsb'_append_byte _ b 0 8
    _ = a := BitVec.extractLsb'_append_eq_right

@[simp] theorem bField_packWord (op a b c : Byte) : bField (packWord op a b c) = b :=
  (extractLsb'_append_byte (op ++ a ++ b) c 0 8).trans BitVec.extractLsb'_append_eq_right

@[simp] theorem cField_packWord (op a b c : Byte) : cField (packWord op a b c) = c :=
  BitVec.extractLsb'_append_eq_right

@[simp] theorem opField_packImm (op : Byte) (imm : BitVec 16) (c : Byte) : opField (packImm op imm c) = op :=
  (extractLsb'_append_byte (op ++ imm) c 16 8).trans BitVec.extractLsb'_append_eq_left

@[simp] theorem immField_packImm (op : Byte) (imm : BitVec 16) (c : Byte) : immField (packImm op imm c) = imm :=
  (extractLsb'_append_byte (op ++ imm) c 0 16).trans BitVec.extractLsb'_append_eq_right

@[simp] theorem cField_packImm (op : Byte) (imm : BitVec 16) (c : Byte) : cField (packImm op imm c) = c :=
  BitVec.extractLsb'_append_eq_right

/-! ### A word is its fields (R90) -/

theorem packWord_fields (w : Command) : packWord (opField w) (aField w) (bField w) (cField w) = w := by
  rw [packWord, opField, aField, bField, cField,
    BitVec.extractLsb'_append_extractLsb'_eq_extractLsb' (rfl : 24 = 16 + 8),
    BitVec.extractLsb'_append_extractLsb'_eq_extractLsb' (rfl : 16 = 8 + 8),
    BitVec.extractLsb'_append_extractLsb'_eq_extractLsb' (rfl : 8 = 0 + 8)]
  exact BitVec.extractLsb'_eq_self

theorem packImm_fields (w : Command) : packImm (opField w) (immField w) (cField w) = w := by
  rw [packImm, opField, immField, cField,
    BitVec.extractLsb'_append_extractLsb'_eq_extractLsb' (rfl : 24 = 8 + 16),
    BitVec.extractLsb'_append_extractLsb'_eq_extractLsb' (rfl : 8 = 0 + 8)]
  exact BitVec.extractLsb'_eq_self

theorem packWord_eq_iff {op a b c : Byte} {w : Command} :
    packWord op a b c = w ↔ op = opField w ∧ a = aField w ∧ b = bField w ∧ c = cField w := by
  constructor
  · rintro rfl
    simp
  · rintro ⟨rfl, rfl, rfl, rfl⟩
    exact packWord_fields w

theorem packImm_eq_iff {op : Byte} {imm : BitVec 16} {c : Byte} {w : Command} :
    packImm op imm c = w ↔ op = opField w ∧ imm = immField w ∧ c = cField w := by
  constructor
  · rintro rfl
    simp
  · rintro ⟨rfl, rfl, rfl⟩
    exact packImm_fields w

/-- A word under a mask, field by field; the fields of the mask and of the match compute. -/
theorem and_eq_iff_fields {w mask word : Command} : w &&& mask = word ↔
    opField w &&& mask.extractLsb' 24 8 = word.extractLsb' 24 8 ∧
      aField w &&& mask.extractLsb' 16 8 = word.extractLsb' 16 8 ∧
      bField w &&& mask.extractLsb' 8 8 = word.extractLsb' 8 8 ∧
      cField w &&& mask.extractLsb' 0 8 = word.extractLsb' 0 8 := by
  rw [← packWord_fields (w &&& mask), packWord_eq_iff]
  simp only [opField, aField, bField, cField, BitVec.extractLsb'_and]

theorem and_full_byte (x : Byte) : x &&& 0xFF#8 = x := BitVec.and_allOnes

/-! ### The last byte where it holds one bit or a level, the rest zero (R91, R99) -/

theorem fields_of_bit (v : BitVec 1) :
    (v.setWidth 8).extractLsb' 1 7 = 0#7 ∧ (v.setWidth 8).extractLsb' 0 1 = v := by
  revert v; decide

theorem fields_of_level (l : BitVec 2) :
    (l.setWidth 8).extractLsb' 2 6 = 0#6 ∧ (l.setWidth 8).extractLsb' 0 2 = l := by
  revert l; decide

theorem bit_of_fields {c : Byte} (h : c.extractLsb' 1 7 = 0#7) : (c.extractLsb' 0 1).setWidth 8 = c := by
  revert c; decide

theorem level_of_fields {c : Byte} (h : c.extractLsb' 2 6 = 0#6) : (c.extractLsb' 0 2).setWidth 8 = c := by
  revert c; decide

theorem above_bit_eq_zero_iff {c : Byte} : c.extractLsb' 1 7 = 0#7 ↔ c &&& 0xFE#8 = 0#8 := by
  revert c; decide

theorem above_level_eq_zero_iff {c : Byte} : c.extractLsb' 2 6 = 0#6 ↔ c &&& 0xFC#8 = 0#8 := by
  revert c; decide

/-! ### The decoder is the encoder read backwards (R91, R92, R98) -/

theorem whenZero_eq_ok_iff {zero : Bool} {i j : Instr} : whenZero zero i = .ok j ↔ zero = true ∧ i = j := by
  cases zero <;> simp [whenZero]

theorem decodeRow_encode (i : Instr) : decodeRow (encode i) = .ok i := by
  cases i with
  | bbit v | bset _ _ v => simp [encode, decodeRow, whenZero_eq_ok_iff, fields_of_bit]
  | dleaf _ _ l | drg _ _ l | eleaf _ _ l | erg _ _ l =>
    simp [encode, decodeRow, whenZero_eq_ok_iff, fields_of_level]
  | _ => simp [encode, decodeRow, whenZero]

/-- The row a word matches accounts for all its bits: the opcode is the row's, the fields it tests are zero, the others are the
operands. -/
theorem encode_of_decodeRow_ok {w : Command} {i : Instr} (h : decodeRow w = .ok i) : encode i = w := by
  unfold decodeRow at h
  split at h
  case h_3 | h_17 => -- VMAD and BRGB, whose formats have no must-be-zero field
    rename_i hop
    cases h
    simp [encode, packWord_eq_iff, packImm_eq_iff, hop]
  case h_32 => simp at h -- the unknown opcode
  all_goals
    rename_i hop
    simp only [whenZero_eq_ok_iff, decide_eq_true_eq] at h
    obtain ⟨hzero, rfl⟩ := h
    simp [encode, packWord_eq_iff, packImm_eq_iff, hop, hzero, bit_of_fields, level_of_fields]

theorem decodeRow_eq_ok_iff {w : Command} {i : Instr} : decodeRow w = .ok i ↔ encode i = w := by
  constructor
  · exact encode_of_decodeRow_ok
  · rintro rfl
    exact decodeRow_encode i

/-- The ranges of R93 are all that the decoder tests after the row. -/
theorem decode_eq_ok_iff_decodeRow {w : Command} {i : Instr} :
    decode w = .ok i ↔ i.wellFormed = true ∧ decodeRow w = .ok i := by
  cases hrow : decodeRow w with
  | error e => simp [decode, hrow]
  | ok j =>
    cases hj : j.violation with
    | none =>
      simp only [decode, hrow, hj, Except.ok.injEq, iff_and_self]
      rintro rfl
      simp [Instr.wellFormed, hj]
    | some e =>
      simp only [decode, hrow, hj, Except.ok.injEq, reduceCtorEq, false_iff, not_and]
      rintro hwf rfl
      simp [Instr.wellFormed, hj] at hwf

theorem decode_eq_ok_iff {w : Command} {i : Instr} : decode w = .ok i ↔ i.wellFormed = true ∧ encode i = w := by
  rw [decode_eq_ok_iff_decodeRow, decodeRow_eq_ok_iff]

/-! ### The rows of the table (R94) -/

theorem selectedBy_iff {i : Instr} {w : Command} : i.selectedBy w = true ↔ w &&& i.tableRow.2 = i.tableRow.1 :=
  decide_eq_true_iff

/-- The family `EncodingRow`, put together. -/
theorem selectedBy_encode (i : Instr) : i.selectedBy (encode i) = true :=
  match i with
  | .nop => Laws.EncodingRow.nop
  | .vclr => Laws.EncodingRow.vclr
  | .vmad m add => Laws.EncodingRow.vmad m add
  | .vdiv d => Laws.EncodingRow.vdiv d
  | .vrd i => Laws.EncodingRow.vrd i
  | .pop t => Laws.EncodingRow.pop t
  | .push t r => Laws.EncodingRow.push t r
  | .txbeg => Laws.EncodingRow.txbeg
  | .txin ch => Laws.EncodingRow.txin ch
  | .txdig => Laws.EncodingRow.txdig
  | .txrev => Laws.EncodingRow.txrev
  | .txout => Laws.EncodingRow.txout
  | .trd i => Laws.EncodingRow.trd i
  | .bclr => Laws.EncodingRow.bclr
  | .bptr x y => Laws.EncodingRow.bptr x y
  | .bbit v => Laws.EncodingRow.bbit v
  | .brgb red green blue => Laws.EncodingRow.brgb red green blue
  | .brd => Laws.EncodingRow.brd
  | .bset x y v => Laws.EncodingRow.bset x y v
  | .bget x y => Laws.EncodingRow.bget x y
  | .dleaf x y l => Laws.EncodingRow.dleaf x y l
  | .drg x y l => Laws.EncodingRow.drg x y l
  | .eleaf x y l => Laws.EncodingRow.eleaf x y l
  | .erg x y l => Laws.EncodingRow.erg x y l
  | .fenc => Laws.EncodingRow.fenc
  | .fdec => Laws.EncodingRow.fdec
  | .dec => Laws.EncodingRow.dec
  | .enc w h => Laws.EncodingRow.enc w h
  | .hdr => Laws.EncodingRow.hdr
  | .eclr => Laws.EncodingRow.eclr
  | .srst => Laws.EncodingRow.srst

theorem selectedBy_of_decodeRow_ok {w : Command} {i : Instr} (h : decodeRow w = .ok i) : i.selectedBy w = true := by
  rw [← encode_of_decodeRow_ok h]
  exact selectedBy_encode i

/-- The mask of a row covers the opcode and the fields its format tests, so a selected word passes the decoder's tests. -/
theorem decodeRow_ok_of_selectedBy {w : Command} {i : Instr} (h : i.selectedBy w = true) :
    ∃ j, decodeRow w = .ok j := by
  rw [selectedBy_iff] at h
  cases i <;> simp only [Instr.tableRow, and_eq_iff_fields, BitVec.reduceExtractLsb', and_full_byte, BitVec.and_zero,
    true_and, and_true] at h
  case bbit | bset => simp [decodeRow, whenZero_eq_ok_iff, h, above_bit_eq_zero_iff]
  case dleaf | drg | eleaf | erg => simp [decodeRow, whenZero_eq_ok_iff, h, above_level_eq_zero_iff]
  all_goals simp [decodeRow, whenZero_eq_ok_iff, h]

theorem opField_mask (i : Instr) : opField i.tableRow.2 = 0xFF#8 := by
  cases i <;> simp [Instr.tableRow, opField]

/-- Every mask covers the whole opcode, so a word selects only rows of its own opcode. -/
theorem opField_of_selectedBy {w : Command} {i : Instr} (h : i.selectedBy w = true) :
    opField w = opField i.tableRow.1 :=
  calc opField w
    _ = opField w &&& opField i.tableRow.2 := by rw [opField_mask, and_full_byte]
    _ = opField (w &&& i.tableRow.2) := BitVec.extractLsb'_and.symm
    _ = opField i.tableRow.1 := by rw [selectedBy_iff.mp h]

theorem tableCommands_opcodes_nodup : (tableCommands.map fun i => opField i.tableRow.1).Nodup := by decide

/-- The 31 opcodes differ, so no word selects two rows. -/
theorem tableCommands_disjoint {w : Command} {i j : Instr} (hi : i ∈ tableCommands) (hj : j ∈ tableCommands)
    (hiw : i.selectedBy w = true) (hjw : j.selectedBy w = true) : i = j :=
  List.inj_on_of_nodup_map tableCommands_opcodes_nodup hi hj
    ((opField_of_selectedBy hiw).symm.trans (opField_of_selectedBy hjw))

end Sys2Proof

namespace Sys2Proof.Proofs

/-- Settles O1: a word decodes to exactly the well-formed commands it is the word of (`decode_eq_ok_iff`). -/
theorem decodeInvertsEncode : Obligations.DecodeInvertsEncode :=
  fun _ hwf => decode_eq_ok_iff.mpr ⟨hwf, rfl⟩

/-- Settles O2, the other direction of `decode_eq_ok_iff`. -/
theorem encodeInvertsDecode : Obligations.EncodeInvertsDecode :=
  fun _ _ => decode_eq_ok_iff.mp

/-- Settles O3: the row taken is the one whose word it is, a mask covers all that its row tests, and the opcodes differ. -/
theorem decoderFollowsDisjointRows : Obligations.DecoderFollowsDisjointRows :=
  ⟨fun _ _ => selectedBy_of_decodeRow_ok, fun _ ⟨_, _, hsel⟩ => decodeRow_ok_of_selectedBy hsel,
    fun _ _ hi _ hj => tableCommands_disjoint hi hj⟩

/-- Settles O4 by running the decoder on the eighteen words. -/
theorem specWordsDecode : Obligations.SpecWordsDecode := by
  unfold Obligations.SpecWordsDecode
  decide

end Sys2Proof.Proofs

/-! PROOF. The statements of the arbitrary-precision unit (spec/40_apu.md): VCLR, VMAD, VDIV, VRD, each with its word, its result
and its faults. -/

namespace Sys2Proof

/-! ### A row of the table is known by its opcode (R94) -/

theorem tableRow_mem (i : Instr) : i.tableRow ∈ tableCommands.map Instr.tableRow := by
  cases i <;> (simp only [Instr.tableRow]; decide)

theorem tableRow_eq_of_opField {i j : Instr} (h : opField i.tableRow.1 = opField j.tableRow.1) :
    i.tableRow = j.tableRow := by
  obtain ⟨a, ha, hai⟩ := List.mem_map.mp (tableRow_mem i)
  obtain ⟨b, hb, hbj⟩ := List.mem_map.mp (tableRow_mem j)
  have hab : a = b := List.inj_on_of_nodup_map tableCommands_opcodes_nodup ha hb (by rw [hai, hbj, h])
  rw [← hai, ← hbj, hab]

/-- A word with the opcode of a row that does not select the row is illegal: it could only decode to a command of that row
(R92, R96). -/
theorem decode_error_of_opField {w : Command} {i : Instr} (hop : opField w = opField i.tableRow.1)
    (hsel : i.selectedBy w = false) : ∃ e, decode w = .error e := by
  cases hd : decode w with
  | error e => exact ⟨e, rfl⟩
  | ok j =>
    have hj : j.selectedBy w = true := selectedBy_of_decodeRow_ok (decode_eq_ok_iff_decodeRow.mp hd).2
    have hrow : j.tableRow = i.tableRow := tableRow_eq_of_opField ((opField_of_selectedBy hj).symm.trans hop)
    have hi : i.selectedBy w = true := selectedBy_iff.mpr (hrow ▸ selectedBy_iff.mp hj)
    rw [hsel] at hi
    cases hi

/-- A command without operands is selected by one word only (R91). -/
theorem selectedBy_eq_false_of_ne {w : Command} {i : Instr} (hmask : i.tableRow.2 = BitVec.allOnes 32)
    (hne : w ≠ i.tableRow.1) : i.selectedBy w = false := by
  refine Bool.eq_false_iff.mpr fun hsel => hne ?_
  rw [← selectedBy_iff.mp hsel, hmask, BitVec.and_allOnes]

end Sys2Proof

namespace Sys2Proof.Machine

theorem packImm_eq_ofNat (op : Byte) (imm : BitVec 16) (c : Byte) :
    packImm op imm c = BitVec.ofNat 32 (op.toNat * 2 ^ 24 + imm.toNat * 256 + c.toNat) := by
  apply BitVec.eq_of_toNat_eq
  rw [packImm, append_byte_toNat, BitVec.toNat_append, ← Nat.shiftLeft_add_eq_or_of_lt imm.isLt, Nat.shiftLeft_eq,
    BitVec.toNat_ofNat]
  omega

/-- STATUS.Z is bit 2 of STATUS (R31, R35). -/
theorem readRegister_status_zeroFlag (s : State) : (readRegister s 0x1).getLsbD 2 = zeroFlag s := by
  have hbit : ∀ ne z err : Bool,
      ((0#28 ++ BitVec.ofBool ne) ++ BitVec.ofBool z ++ BitVec.ofBool err ++ BitVec.ofBool false).getLsbD 2 = z := by
    decide
  exact hbit s.ne (zeroFlag s) s.err

/-- A number below 2^16 fits R. -/
theorem ofNat_sixteen_toNat {n : Nat} (h : n < 2 ^ 16) : (BitVec.ofNat 16 n).toNat = n := by
  rw [BitVec.toNat_ofNat, Nat.mod_eq_of_lt h]

theorem fitsV_eq_false_iff (cfg : Config) (v : Nat) : fitsV cfg v = false ↔ ∃ k, cfg.vcap = some k ∧ 2 ^ k ≤ v := by
  rw [← Bool.not_eq_true, fitsV_iff]
  push Not
  rfl

/-! ### The commands, case by case (R127, R128, R129) -/

theorem exec_vmad_of_fits {m : BitVec 16} {add : Byte} {s : State}
    (h : fitsV s.cfg (s.v * m.toNat + add.toNat) = true) :
    exec (.vmad m add) s = .next { s with v := s.v * m.toNat + add.toNat } :=
  congrArg Host.Outcome.next (settle_of_ok (writeV_ok.mpr ⟨h, rfl⟩))

theorem exec_vmad_of_not_fits {m : BitVec 16} {add : Byte} {s : State}
    (h : fitsV s.cfg (s.v * m.toNat + add.toNat) = false) :
    exec (.vmad m add) s = .next (raise .capacityFault (encode (.vmad m add)) s) :=
  congrArg Host.Outcome.next (settle_of_error (writeV_error.mpr ⟨h, rfl⟩))

theorem exec_vdiv_of_ne_zero {d : BitVec 16} (h : d.toNat ≠ 0) (s : State) :
    exec (.vdiv d) s = .next { s with v := s.v / d.toNat, r := BitVec.ofNat 16 (s.v % d.toNat) } :=
  congrArg Host.Outcome.next (settle_of_ok (divideV_ok.mpr ⟨h, rfl⟩))

theorem divideV_zero (s : State) : divideV 0 s = .error .divideByZero := rfl

theorem exec_vdiv_zero (s : State) : exec (.vdiv 0) s = .next (raise .divideByZero (encode (.vdiv 0)) s) :=
  congrArg Host.Outcome.next (settle_of_error (divideV_zero s))

theorem byteOfV_lt (v i : Nat) : byteOfV v i < 256 :=
  Nat.mod_lt _ (by decide)

end Sys2Proof.Machine

namespace Sys2Proof.Proofs

open Sys2Proof.Machine

/-- Settles O20: VCLR's row has no operand, so a second word of its opcode selects no row. -/
theorem vclrClearsV : Obligations.VclrClearsV :=
  ⟨rfl, fun _ hop hne => decode_error_of_opField (i := .vclr) hop (selectedBy_eq_false_of_ne rfl hne),
    fun _ => ⟨rfl, readRegister_status_zeroFlag _⟩⟩

/-- Settles O21: the two cases are whether the new value fits V. -/
theorem vmadMultipliesAndAdds : Obligations.VmadMultipliesAndAdds :=
  fun m add _ => ⟨packImm_eq_ofNat 0x02#8 m add, fun hfits => exec_vmad_of_fits ((fitsV_iff _ _).mpr hfits),
    fun hover => exec_vmad_of_not_fits ((fitsV_eq_false_iff _ _).mpr hover)⟩

/-- Settles O22: the quotient and the remainder of the naturals, the remainder small enough for R. -/
theorem vdivDividesWithRemainder : Obligations.VdivDividesWithRemainder := by
  intro d s
  refine ⟨packImm_eq_ofNat 0x03#8 d 0#8, fun hd => ?_, ?_⟩
  · have hne : d.toNat ≠ 0 := fun h => hd (BitVec.eq_of_toNat_eq h)
    have hlt : s.v % d.toNat < d.toNat := Nat.mod_lt _ (Nat.pos_of_ne_zero hne)
    have hr : (BitVec.ofNat 16 (s.v % d.toNat)).toNat = s.v % d.toNat :=
      ofNat_sixteen_toNat (hlt.trans d.isLt)
    refine ⟨_, exec_vdiv_of_ne_zero hne s, rfl, ?_, ?_, ?_⟩
    · rw [hr, Nat.div_add_mod']
    · rwa [hr]
    · exact Nat.div_eq_zero_iff_lt (Nat.pos_of_ne_zero hne)
  · rintro rfl
    exact exec_vdiv_zero s

/-- Settles O23: a byte fits R. -/
theorem vrdReadsByteOfV : Obligations.VrdReadsByteOfV := by
  intro i s
  refine ⟨packImm_eq_ofNat 0x04#8 i 0#8, _, rfl, rfl, ?_⟩
  exact ofNat_sixteen_toNat ((byteOfV_lt s.v i.toNat).trans (by decide))

end Sys2Proof.Proofs

/-! PROOF. The statements of the symbol coder (spec/41_symbol_coder.md): POP and PUSH, each with its word, its result and its
faults, that the two are inverse to each other on a well-formed table, and that a sequence of symbols comes back in order. -/

namespace Sys2Proof.Machine

/-! ### The tables (R140) -/

theorem tableRows_level (cfg : Config) (t : Fin 4) : tableRows cfg t.val = (cfg.lvl[t.val]).toList := by
  simp [tableRows]

theorem tableRows_leaf (cfg : Config) : tableRows cfg 4 = cfg.leaf.toList := by
  simp [tableRows]

theorem length_tableRows (cfg : Config) (t : Nat) : (tableRows cfg t).length = rowCount t := by
  by_cases ht : t < 4
  · rw [tableRows_level cfg ⟨t, ht⟩, Vector.length_toList, rowCount, if_pos (Nat.le_of_lt_succ ht)]
  · by_cases h4 : t = 4
    · subst h4
      rw [tableRows_leaf, Vector.length_toList]
      rfl
    · have hle : ¬ t ≤ 3 := by omega
      simp [tableRows, rowCount, ht, h4, hle]

theorem lt_rowCount_of_getElem? {cfg : Config} {t r : Nat} {row : RomRow} (h : (tableRows cfg t)[r]? = some row) :
    r < rowCount t :=
  length_tableRows cfg t ▸ (List.getElem?_eq_some_iff.mp h).1

theorem rowCount_le (t : Nat) : rowCount t ≤ 16 := by
  unfold rowCount
  split_ifs <;> decide

theorem countOf_ne_zero_iff {cfg : Config} {t r : Nat} :
    countOf cfg t r ≠ 0 ↔ ∃ row, (tableRows cfg t)[r]? = some row ∧ row.count.val ≠ 0 := by
  unfold countOf
  cases (tableRows cfg t)[r]? <;> simp

theorem wellFormed_pop_iff (t : Byte) : (Instr.pop t).wellFormed = true ↔ t.toNat ≤ 4 := by
  simp [Instr.wellFormed, Instr.violation, selectorOk]

theorem wellFormed_push_iff (t r : Byte) :
    (Instr.push t r).wellFormed = true ↔ t.toNat ≤ 4 ∧ r.toNat < rowCount t.toNat := by
  by_cases ht : t.toNat ≤ 4 <;> simp [Instr.wellFormed, Instr.violation, selectorOk, rowOk, ht]

theorem rowContains_eq_false_iff (row : RomRow) (n : Nat) :
    rowContains row n = false ↔ ¬ (row.base.val ≤ n ∧ n < row.base.val + row.count.val) := by
  rw [← Bool.not_eq_true, rowContains_iff]

/-! ### One symbol into V and out of it (R141, R143) -/

/-- V after a pop of a row that contains its low byte (R141). -/
def poppedV (row : RomRow) (v : Nat) : Nat := v / 256 * row.count.val + (v % 256 - row.base.val)

/-- V after a push of a row (R143). -/
def pushedV (row : RomRow) (v : Nat) : Nat := v / row.count.val * 256 + (v % row.count.val + row.base.val)

theorem pop_of_first {t r : Nat} {row : RomRow} {s : State} (hrow : (tableRows s.cfg t)[r]? = some row)
    (hcon : rowContains row (s.v % 256) = true)
    (hfirst : ∀ j < r, ∀ row', (tableRows s.cfg t)[j]? = some row' → rowContains row' (s.v % 256) = false) :
    pop t s = .ok { s with v := poppedV row s.v, r := BitVec.ofNat 16 r } := by
  cases hp : pop t s with
  | error c =>
    have hnone := (pop_error.mp hp).2 row (List.mem_of_getElem? hrow)
    simp [hcon] at hnone
  | ok s' =>
    obtain ⟨k, row', hrow', hcon', hfirst', rfl⟩ := pop_ok hp
    have hkr : k = r := by
      rcases Nat.lt_trichotomy k r with hlt | heq | hgt
      · simp [hfirst k hlt row' hrow'] at hcon'
      · exact heq
      · simp [hfirst' r hgt row hrow] at hcon
    subst hkr
    cases hrow.symm.trans hrow'
    rfl

theorem push_of_row {t r : Nat} {row : RomRow} {s : State} (hrow : (tableRows s.cfg t)[r]? = some row) :
    push t r s = if row.count.val = 0 then .error .divideByZero else writeV (pushedV row s.v) s := by
  simp [push, hrow, pushedV]

/-! ### The commands, case by case (R141, R143) -/

theorem exec_pop_of_selector {t : Byte} (ht : t.toNat ≤ 4) (s : State) :
    exec (.pop t) s = .next (settle (encode (.pop t)) (pop t.toNat) s) :=
  congrArg Host.Outcome.next (checked_of_wellFormed ((wellFormed_pop_iff t).mpr ht))

theorem exec_pop_of_first {t : Byte} {r : Nat} {row : RomRow} {s : State} (ht : t.toNat ≤ 4)
    (hrow : (tableRows s.cfg t.toNat)[r]? = some row) (hcon : rowContains row (s.v % 256) = true)
    (hfirst : ∀ j < r, ∀ row', (tableRows s.cfg t.toNat)[j]? = some row' → rowContains row' (s.v % 256) = false) :
    exec (.pop t) s = .next { s with v := poppedV row s.v, r := BitVec.ofNat 16 r } := by
  rw [exec_pop_of_selector ht, settle_of_ok (pop_of_first hrow hcon hfirst)]

theorem exec_pop_of_none {t : Byte} {s : State} (ht : t.toNat ≤ 4)
    (hnone : ∀ row ∈ tableRows s.cfg t.toNat, rowContains row (s.v % 256) = false) :
    exec (.pop t) s = .next (raise .modelFault (encode (.pop t)) s) := by
  rw [exec_pop_of_selector ht, settle_of_error (pop_error.mpr ⟨rfl, hnone⟩)]

section Push

variable {t r : Byte} {row : RomRow} {s : State}

theorem wellFormed_push_of_row (ht : t.toNat ≤ 4) (hrow : (tableRows s.cfg t.toNat)[r.toNat]? = some row) :
    (Instr.push t r).wellFormed = true :=
  (wellFormed_push_iff t r).mpr ⟨ht, lt_rowCount_of_getElem? hrow⟩

theorem exec_push_of_row (ht : t.toNat ≤ 4) (hrow : (tableRows s.cfg t.toNat)[r.toNat]? = some row) :
    exec (.push t r) s = .next (settle (encode (.push t r)) (push t.toNat r.toNat) s) :=
  congrArg Host.Outcome.next (checked_of_wellFormed (wellFormed_push_of_row ht hrow))

theorem exec_push_of_count_zero (ht : t.toNat ≤ 4) (hrow : (tableRows s.cfg t.toNat)[r.toNat]? = some row)
    (hcount : row.count.val = 0) :
    exec (.push t r) s = .next (raise .divideByZero (encode (.push t r)) s) := by
  rw [exec_push_of_row ht hrow, settle_of_error (c := .divideByZero) (by rw [push_of_row hrow, if_pos hcount])]

theorem exec_push_of_fits (ht : t.toNat ≤ 4) (hrow : (tableRows s.cfg t.toNat)[r.toNat]? = some row)
    (hcount : row.count.val ≠ 0) (hfits : fitsV s.cfg (pushedV row s.v) = true) :
    exec (.push t r) s = .next { s with v := pushedV row s.v } := by
  have hpush : push t.toNat r.toNat s = .ok { s with v := pushedV row s.v } := by
    rw [push_of_row hrow, if_neg hcount, writeV_ok]
    exact ⟨hfits, rfl⟩
  rw [exec_push_of_row ht hrow, settle_of_ok hpush]

theorem exec_push_of_not_fits (ht : t.toNat ≤ 4) (hrow : (tableRows s.cfg t.toNat)[r.toNat]? = some row)
    (hcount : row.count.val ≠ 0) (hover : fitsV s.cfg (pushedV row s.v) = false) :
    exec (.push t r) s = .next (raise .capacityFault (encode (.push t r)) s) := by
  have hpush : push t.toNat r.toNat s = .error .capacityFault := by
    rw [push_of_row hrow, if_neg hcount, writeV_error]
    exact ⟨hover, rfl⟩
  rw [exec_push_of_row ht hrow, settle_of_error hpush]

end Push

/-! ### Well-formed tables (R54) -/

/-- Of two rows at different places at most one contains n: two that did would both stay in the filtered table. -/
theorem tableWellFormed_disjoint {rows : List RomRow} (h : tableWellFormed rows) {n : Nat} (hn : n < 256) :
    rows.Pairwise fun a b => rowContains b n = true → rowContains a n = false := by
  rw [List.pairwise_iff_forall_sublist]
  intro a b hab hb
  refine Bool.eq_false_iff.mpr fun ha => ?_
  have hle := (hab.filter fun row => rowContains row n).length_le
  rw [h.2 n hn] at hle
  simp [ha, hb] at hle

/-- In a well-formed table the row that contains n is the first one that does. -/
theorem first_of_tableWellFormed {rows : List RomRow} (h : tableWellFormed rows) {n r : Nat} {row : RomRow} (hn : n < 256)
    (hrow : rows[r]? = some row) (hcon : rowContains row n = true) :
    ∀ j < r, ∀ row', rows[j]? = some row' → rowContains row' n = false := by
  intro j hj row' hrow'
  obtain ⟨hr, rfl⟩ := List.getElem?_eq_some_iff.mp hrow
  obtain ⟨hj', rfl⟩ := List.getElem?_eq_some_iff.mp hrow'
  exact List.pairwise_iff_getElem.mp (tableWellFormed_disjoint h hn) j r hj' hr hj hcon

theorem exists_rowContains_of_tableWellFormed {rows : List RomRow} (h : tableWellFormed rows) {n : Nat} (hn : n < 256) :
    ∃ row ∈ rows, rowContains row n = true := by
  have hpos : 0 < (rows.filter fun row => rowContains row n).length := by rw [h.2 n hn]; decide
  obtain ⟨row, hmem⟩ := List.exists_mem_of_length_pos hpos
  exact ⟨row, List.mem_filter.mp hmem⟩

/-! ### A push and a pop undo each other (R145) -/

section Inverse

variable {row : RomRow}

/-- The low byte a push leaves in V is the slot of V's remainder in the row's range. -/
theorem pushedV_mod (hcount : row.count.val ≠ 0) (hrange : row.base.val + row.count.val ≤ 256) (v : Nat) :
    pushedV row v % 256 = v % row.count.val + row.base.val := by
  have hlt : v % row.count.val < row.count.val := Nat.mod_lt _ (Nat.pos_of_ne_zero hcount)
  unfold pushedV
  omega

theorem pushedV_div (hcount : row.count.val ≠ 0) (hrange : row.base.val + row.count.val ≤ 256) (v : Nat) :
    pushedV row v / 256 = v / row.count.val := by
  have hlt : v % row.count.val < row.count.val := Nat.mod_lt _ (Nat.pos_of_ne_zero hcount)
  unfold pushedV
  omega

theorem rowContains_pushedV (hcount : row.count.val ≠ 0) (hrange : row.base.val + row.count.val ≤ 256) (v : Nat) :
    rowContains row (pushedV row v % 256) = true := by
  have hlt : v % row.count.val < row.count.val := Nat.mod_lt _ (Nat.pos_of_ne_zero hcount)
  rw [pushedV_mod hcount hrange, rowContains_iff]
  omega

theorem poppedV_pushedV (hcount : row.count.val ≠ 0) (hrange : row.base.val + row.count.val ≤ 256) (v : Nat) :
    poppedV row (pushedV row v) = v := by
  rw [poppedV, pushedV_mod hcount hrange, pushedV_div hcount hrange, Nat.add_sub_cancel, Nat.div_add_mod']

theorem pushedV_poppedV {v : Nat} (hcon : rowContains row (v % 256) = true) : pushedV row (poppedV row v) = v := by
  obtain ⟨hbase, hlt⟩ := (rowContains_iff row _).mp hcon
  have hslot : v % 256 - row.base.val < row.count.val := by omega
  have hdiv : poppedV row v / row.count.val = v / 256 := by
    rw [poppedV, Nat.mul_comm, Nat.mul_add_div (by omega), Nat.div_eq_of_lt hslot, Nat.add_zero]
  have hmod : poppedV row v % row.count.val = v % 256 - row.base.val := by
    rw [poppedV, Nat.mul_comm, Nat.mul_add_mod, Nat.mod_eq_of_lt hslot]
  rw [pushedV, hdiv, hmod, Nat.sub_add_cancel hbase, Nat.div_add_mod']

end Inverse

/-- POP after a push of a row of the same well-formed table: the row number in R, V as before the push (R145). -/
theorem exec_pop_pushed {t r : Byte} {row : RomRow} (ht : t.toNat ≤ 4) {s : State}
    (hwf : tableWellFormed (tableRows s.cfg t.toNat)) (hrow : (tableRows s.cfg t.toNat)[r.toNat]? = some row)
    (hcount : row.count.val ≠ 0) :
    exec (.pop t) { s with v := pushedV row s.v } = .next { s with r := r.setWidth 16 } := by
  have hrange : row.base.val + row.count.val ≤ 256 :=
    hwf.1 row (List.mem_of_getElem? hrow) (Nat.one_le_iff_ne_zero.mpr hcount)
  have hcon := rowContains_pushedV hcount hrange s.v
  have hfirst := first_of_tableWellFormed hwf (Nat.mod_lt _ (by decide)) hrow hcon
  rw [exec_pop_of_first (s := { s with v := pushedV row s.v }) ht hrow hcon hfirst]
  simp only [poppedV_pushedV hcount hrange, BitVec.ofNat_toNat]

/-- POP on a well-formed table finds a row, which a push puts back (R145). -/
theorem exec_push_popped {t : Byte} (ht : t.toNat ≤ 4) {s : State} (hwf : tableWellFormed (tableRows s.cfg t.toNat))
    (hfits : fitsV s.cfg s.v = true) :
    ∃ (r : Byte) (s1 : State), exec (.pop t) s = .next s1 ∧ s1.r = r.setWidth 16 ∧
      exec (.push t r) s1 = .next { s with r := s1.r } := by
  have hn : s.v % 256 < 256 := Nat.mod_lt _ (by decide)
  obtain ⟨row, hmem, hcon⟩ := exists_rowContains_of_tableWellFormed hwf hn
  obtain ⟨r, hrow⟩ := List.mem_iff_getElem?.mp hmem
  have hr : r < 2 ^ 8 :=
    calc r < rowCount t.toNat := lt_rowCount_of_getElem? hrow
      _ ≤ 16 := rowCount_le _
      _ < 2 ^ 8 := by decide
  have hbyte : (BitVec.ofNat 8 r).toNat = r := by rw [BitVec.toNat_ofNat, Nat.mod_eq_of_lt hr]
  have hcount : row.count.val ≠ 0 := by
    have := (rowContains_iff row _).mp hcon
    omega
  refine ⟨BitVec.ofNat 8 r, _, exec_pop_of_first ht hrow hcon (first_of_tableWellFormed hwf hn hrow hcon), ?_, ?_⟩
  · rw [← BitVec.ofNat_toNat, hbyte]
  · have hback : pushedV row (poppedV row s.v) = s.v := pushedV_poppedV hcon
    rw [exec_push_of_fits (row := row) ht (by rwa [hbyte]) hcount (by rwa [hback])]
    simp only [hback]

/-! ### Symbols presented one after another (R146) -/

/-- A well-formed command presented to a machine that is not faulted runs (R98). -/
theorem present_encode {i : Instr} {s : State} (herr : s.err = false) (hwf : i.wellFormed = true) :
    present (encode i) s = exec i s :=
  present_of_accepts_of_decode_ok (accepts_of_not_err herr _) (decode_eq_ok_iff.mpr ⟨hwf, rfl⟩)

/-- A faulted machine drops PUSH: its word is neither ECLR's nor SRST's (R273). -/
theorem present_push_of_err {s : State} (herr : s.err = true) (t r : Byte) :
    present (encode (.push t r)) s = .next s := by
  apply present_of_not_accepts
  simp [accepts, herr, encode, packWord_eq_iff, opField]

/-- A symbol a well-formed table can take: the table exists, and so does the row, with a count (R54, R146). -/
def Pushable (cfg : Config) (p : Byte × Byte) : Prop :=
  p.1.toNat ≤ 4 ∧ tableWellFormed (tableRows cfg p.1.toNat) ∧ countOf cfg p.1.toNat p.2.toNat ≠ 0

/-- Whatever R holds, popping the tables of `syms` from `s` on reads their rows in order and ends, not faulted, with `v`
in V (R146). -/
def PopsBack (syms : List (Byte × Byte)) (v : Nat) (s : State) : Prop :=
  ∀ r : BitVec 16, ∃ s2, presentReadingR (syms.map fun p => .pop p.1) { s with r := r } =
    some (syms.map fun p => p.2.setWidth 16, s2) ∧ s2.v = v ∧ s2.err = false

theorem popsBack_nil {s : State} (herr : s.err = false) : PopsBack [] s.v s :=
  fun r => ⟨{ s with r := r }, rfl, rfl, herr⟩

theorem presentReadingR_cons {i : Instr} {rest : List Instr} {s t u : State} {rs : List (BitVec 16)}
    (hi : present (encode i) s = .next t) (hrest : presentReadingR rest t = some (rs, u)) :
    presentReadingR (i :: rest) s = some (t.r :: rs, u) := by
  simp [presentReadingR, hi, hrest]

/-- The symbol pushed last is the one popped first (R145). -/
theorem PopsBack.push {syms : List (Byte × Byte)} {v : Nat} {s : State} (h : PopsBack syms v s) (herr : s.err = false)
    {p : Byte × Byte} {row : RomRow} (ht : p.1.toNat ≤ 4) (hwf : tableWellFormed (tableRows s.cfg p.1.toNat))
    (hrow : (tableRows s.cfg p.1.toNat)[p.2.toNat]? = some row) (hcount : row.count.val ≠ 0) :
    PopsBack (p :: syms) v { s with v := pushedV row s.v } := by
  intro r
  obtain ⟨s2, hrest, hend⟩ := h (p.2.setWidth 16)
  refine ⟨s2, presentReadingR_cons ?_ hrest, hend⟩
  exact Eq.trans (present_encode herr ((wellFormed_pop_iff p.1).mpr ht))
    (exec_pop_pushed (s := { s with r := r }) ht hwf hrow hcount)

/-- Pushing symbols from the last to the first ends with them popping back, or in a fault, which needs a bounded V (R146). -/
theorem presentAll_pushes {syms : List (Byte × Byte)} {s : State} (herr : s.err = false)
    (hsyms : ∀ p ∈ syms, Pushable s.cfg p) :
    ∃ s1, presentAll (syms.reverse.map fun p => .push p.1 p.2) s = .next s1 ∧ s1.cfg = s.cfg ∧
      (s.cfg.vcap = none → s1.err = false) ∧ (s1.err = false → PopsBack syms s.v s1) := by
  induction syms with
  | nil => exact ⟨s, rfl, rfl, fun _ => herr, popsBack_nil⟩
  | cons p syms ih =>
    obtain ⟨s1, hpushes, hcfg, hunbounded, hpops⟩ := ih fun q hq => hsyms q (List.mem_cons_of_mem p hq)
    obtain ⟨ht, hwf, hcountOf⟩ := hsyms p List.mem_cons_self
    obtain ⟨row, hrow, hcount⟩ := countOf_ne_zero_iff.mp hcountOf
    rw [← hcfg] at hwf hrow
    have hlast {s' : State} (hp : present (encode (.push p.1 p.2)) s1 = .next s') :
        presentAll ((p :: syms).reverse.map fun p => .push p.1 p.2) s = .next s' := by
      rw [List.reverse_cons, List.map_append, presentAll_append hpushes]
      exact presentAll_cons hp
    cases herr1 : s1.err with
    | true =>
      refine ⟨s1, hlast (present_push_of_err herr1 p.1 p.2), hcfg, hunbounded, fun h => ?_⟩
      rw [herr1] at h
      cases h
    | false =>
      have hpresent := present_encode herr1 (wellFormed_push_of_row ht hrow)
      cases hfits : fitsV s1.cfg (pushedV row s1.v) with
      | true =>
        exact ⟨_, hlast (hpresent.trans (exec_push_of_fits ht hrow hcount hfits)), hcfg, fun _ => herr1,
          fun _ => (hpops herr1).push herr1 ht hwf hrow hcount⟩
      | false =>
        obtain ⟨k, hk, -⟩ := (fitsV_eq_false_iff _ _).mp hfits
        refine ⟨_, hlast (hpresent.trans (exec_push_of_not_fits ht hrow hcount hfits)), hcfg, fun hnone => ?_,
          fun h => by cases h⟩
        rw [hcfg, hnone] at hk
        cases hk

end Sys2Proof.Machine

namespace Sys2Proof.Proofs

open Sys2Proof.Machine

/-- Settles O27: a push and a pop undo each other's arithmetic, and in a well-formed table the row that contains the low byte
of V is the first. -/
theorem pushAndPopAreInverse : Obligations.PushAndPopAreInverse := by
  intro t s ht hwf
  refine ⟨fun r row hrow hcount hfits => ?_, fun hfits => exec_push_popped ht hwf ((fitsV_iff _ _).mpr hfits)⟩
  have hne : row.count.val ≠ 0 := Nat.one_le_iff_ne_zero.mp hcount
  exact ⟨_, exec_push_of_fits ht hrow hne ((fitsV_iff _ _).mpr hfits), exec_pop_pushed ht hwf hrow hne⟩

/-- Settles O28, by induction on the symbols (`presentAll_pushes`). -/
theorem symbolSequenceRoundTrip : Obligations.SymbolSequenceRoundTrip := by
  intro syms s herr hsyms
  obtain ⟨s1, hpushes, -, hunbounded, hpops⟩ := presentAll_pushes herr hsyms
  exact ⟨s1, hpushes, hunbounded, fun herr1 => hpops herr1 s1.r⟩

/-- Settles O24: the two cases are whether a row contains the low byte of V. -/
theorem popDecodesOneSymbol : Obligations.PopDecodesOneSymbol := by
  intro t s ht
  refine ⟨packWord_eq_ofNat 0x10#8 t 0#8 0#8, fun r row hrow hbase hlt hfirst => ?_, fun hnone => ?_⟩
  · exact exec_pop_of_first ht hrow ((rowContains_iff row _).mpr ⟨hbase, hlt⟩)
      fun j hj row' hrow' => (rowContains_eq_false_iff row' _).mpr (hfirst j hj row' hrow')
  · exact exec_pop_of_none ht fun row hmem => (rowContains_eq_false_iff row _).mpr (hnone row hmem)

/-- Settles O25: the three cases are whether the row has a count and whether the new value fits V. -/
theorem pushEncodesOneSymbol : Obligations.PushEncodesOneSymbol :=
  fun t r _ _ ht hrow => ⟨packWord_eq_ofNat 0x11#8 t r 0#8, exec_push_of_count_zero ht hrow,
    fun hcount hfits => exec_push_of_fits ht hrow hcount ((fitsV_iff _ _).mpr hfits),
    fun hcount hover => exec_push_of_not_fits ht hrow hcount ((fitsV_eq_false_iff _ _).mpr hover)⟩

/-- Settles O26: an operand out of range makes the command ill-formed, and a row field makes a POP word select no row. -/
theorem coderOperandsAreChecked : Obligations.CoderOperandsAreChecked := by
  refine ⟨tableRows_level, tableRows_leaf, fun t s ht => ?_, fun t r s hbad => ?_, fun w hop hfield => ?_⟩
  · have hwf : (Instr.pop t).wellFormed = false := by
      rw [← Bool.not_eq_true, wellFormed_pop_iff]
      omega
    exact exec_of_not_wellFormed hwf s
  · have hwf : (Instr.push t r).wellFormed = false := by
      rw [← Bool.not_eq_true, wellFormed_push_iff, rowCount]
      split_ifs <;> omega
    exact exec_of_not_wellFormed hwf s
  · refine decode_error_of_opField (i := .pop 0) hop (Bool.eq_false_iff.mpr fun hsel => hfield ?_)
    obtain ⟨-, -, hb, -⟩ := and_eq_iff_fields.mp (selectedBy_iff.mp hsel)
    exact (and_full_byte (bField w)).symm.trans hb

end Sys2Proof.Proofs

/-! PROOF. The statements of the text codec (spec/42_text_codec.md): the text commands case by case, the text TXOUT writes, the
value a loaded text gives V, and that the two are inverse up to noise and leading zero digits. -/

namespace Sys2Proof.Machine

/-! ### Characters and digits (R150, R151) -/

/-- The digit a data character stands for (R150). -/
def characterDigit (c : Byte) : Nat := c.toNat - 33

theorem isDataCharacter_iff (c : Byte) : isDataCharacter c = true ↔ 33 ≤ c.toNat ∧ c.toNat ≤ 126 := by
  simp [isDataCharacter]

theorem isDataCharacter_eq_false_iff (c : Byte) : isDataCharacter c = false ↔ c.toNat < 33 ∨ 126 < c.toNat := by
  rw [← Bool.not_eq_true, isDataCharacter_iff]
  omega

theorem toNat_digitCharacter {d : Nat} (h : d < 94) : (digitCharacter d).toNat = 33 + d := by
  rw [digitCharacter, BitVec.toNat_ofNat]
  omega

theorem isDataCharacter_digitCharacter {d : Nat} (h : d < 94) : isDataCharacter (digitCharacter d) = true := by
  rw [isDataCharacter_iff, toNat_digitCharacter h]
  omega

theorem characterDigit_digitCharacter {d : Nat} (h : d < 94) : characterDigit (digitCharacter d) = d := by
  rw [characterDigit, toNat_digitCharacter h, Nat.add_sub_cancel_left]

theorem digitCharacter_characterDigit {c : Byte} (h : isDataCharacter c = true) : digitCharacter (characterDigit c) = c := by
  obtain ⟨hlow, -⟩ := (isDataCharacter_iff c).mp h
  rw [digitCharacter, characterDigit, Nat.add_sub_cancel' hlow, BitVec.ofNat_toNat, BitVec.setWidth_eq]

theorem characterDigit_lt {c : Byte} (h : isDataCharacter c = true) : characterDigit c < 94 := by
  obtain ⟨-, hhigh⟩ := (isDataCharacter_iff c).mp h
  unfold characterDigit
  omega

/-- The data character of digit 0 is `!` (R150). -/
theorem characterDigit_eq_zero_iff {c : Byte} (h : isDataCharacter c = true) : characterDigit c = 0 ↔ c = 33#8 := by
  obtain ⟨hlow, -⟩ := (isDataCharacter_iff c).mp h
  rw [BitVec.toNat_eq, BitVec.toNat_ofNat, characterDigit]
  omega

/-! ### The primitive text commands, case by case (R153, R158, R162) -/

theorem foldCharacter_error {ch : Byte} {s : State} {c : FaultCause} : foldCharacter ch s = .error c ↔
    isDataCharacter ch = true ∧ fitsV s.cfg (s.v * 94 + (ch.toNat - 33)) = false ∧ c = .capacityFault := by
  unfold foldCharacter
  split
  next hd => simp [bind_eq_error, writeV_error, mulAdd, hd, pure, Except.pure]
  next hd => simp [hd]

section Txin

variable {ch : Byte} {s : State}

theorem exec_txin_of_fits (hd : isDataCharacter ch = true) (hfits : fitsV s.cfg (s.v * 94 + (ch.toNat - 33)) = true) :
    exec (.txin ch) s = .next { s with v := s.v * 94 + (ch.toNat - 33), ne := true } :=
  congrArg Host.Outcome.next (settle_of_ok (foldCharacter_ok.mpr (.inl ⟨hd, hfits, rfl⟩)))

theorem exec_txin_of_not_fits (hd : isDataCharacter ch = true)
    (hover : fitsV s.cfg (s.v * 94 + (ch.toNat - 33)) = false) :
    exec (.txin ch) s = .next (raise .capacityFault (encode (.txin ch)) s) :=
  congrArg Host.Outcome.next (settle_of_error (foldCharacter_error.mpr ⟨hd, hover, rfl⟩))

theorem exec_txin_of_noise (hd : isDataCharacter ch = false) : exec (.txin ch) s = .next { s with ne := true } :=
  congrArg Host.Outcome.next (settle_of_ok (foldCharacter_ok.mpr (.inr ⟨hd, rfl⟩)))

theorem present_txin (herr : s.err = false) : present (encode (.txin ch)) s = exec (.txin ch) s :=
  present_encode herr rfl

/-- A faulted machine drops TXIN: its word is neither ECLR's nor SRST's (R273). -/
theorem present_txin_of_err (herr : s.err = true) : present (encode (.txin ch)) s = .next s := by
  apply present_of_not_accepts
  simp [accepts, herr, encode, packWord_eq_iff, opField]

end Txin

theorem textHasRoom_iff (s : State) : textHasRoom s = true ↔ ∀ k, s.cfg.tcap = some k → s.text.length < k := by
  unfold textHasRoom State.tlen
  cases s.cfg.tcap <;> simp

theorem textHasRoom_eq_false_iff (s : State) :
    textHasRoom s = false ↔ ∃ k, s.cfg.tcap = some k ∧ k ≤ s.text.length := by
  rw [← Bool.not_eq_true, textHasRoom_iff]
  push Not
  rfl

theorem readText_error {i : Nat} {s : State} {c : FaultCause} :
    readText i s = .error c ↔ s.text.length ≤ i ∧ c = .illegalCommand := by
  rw [← List.getElem?_eq_none_iff]
  unfold readText
  cases s.text[i]? with
  | none => simp [eq_comm]
  | some b => simp

/-! ### The text of V (R160) -/

/-- The base-94 digits of the text of `v`, least significant first: a single 0 for 0. -/
def textDigits (v : Nat) : List Nat := if v = 0 then [0] else Nat.digits 94 v

/-- The text of `v`, most significant digit first. -/
def textOf (v : Nat) : List Byte := (textDigits v).reverse.map digitCharacter

theorem textDigits_lt {v d : Nat} (h : d ∈ textDigits v) : d < 94 := by
  unfold textDigits at h
  split at h
  · simp_all
  · exact Nat.digits_lt_base (by decide) h

theorem ofDigits_textDigits (v : Nat) : Nat.ofDigits 94 (textDigits v) = v := by
  unfold textDigits
  split
  next h => simp [h]
  next => exact Nat.ofDigits_digits 94 v

theorem length_digits_le (v : Nat) : (Nat.digits 94 v).length ≤ (textDigits v).length := by
  unfold textDigits
  split <;> simp_all

theorem length_textDigits_pos (v : Nat) : 0 < (textDigits v).length := by
  unfold textDigits
  split
  next => decide
  next h => exact List.length_pos_of_ne_nil (Nat.digits_ne_nil_iff_ne_zero.mpr h)

theorem digits_cons {v : Nat} (h : v ≠ 0) : Nat.digits 94 v = v % 94 :: Nat.digits 94 (v / 94) :=
  Nat.digits_def' (by decide) (Nat.pos_of_ne_zero h)

/-- The state after the digit loop: V's digits, least significant first, follow the text, and the last of them is in R. -/
def digitsWritten (s : State) : State :=
  { s with
    v := 0, text := s.text ++ (Nat.digits 94 s.v).map digitCharacter,
    r := ((Nat.digits 94 s.v).getLast?.map (BitVec.ofNat 16)).getD s.r }

theorem digitsWritten_of_zero {s : State} (h : s.v = 0) : digitsWritten s = s := by
  cases s
  cases h
  simp [digitsWritten]

/-- The digits after the first are those of the state one TXDIG later. -/
theorem digitsWritten_txdig {s : State} (h : s.v ≠ 0) :
    digitsWritten { s with
      v := s.v / 94, text := s.text ++ [digitCharacter (s.v % 94)], r := BitVec.ofNat 16 (s.v % 94) } =
      digitsWritten s := by
  cases hl : (Nat.digits 94 (s.v / 94)).getLast? <;> simp [digitsWritten, digits_cons h, List.getLast?_cons, hl]

/-- Everything the digit loop does when it completes. -/
theorem digitLoop_ok {fuel : Nat} {s t : State} (hv : s.v < 2 ^ fuel) (h : digitLoop fuel s = .ok t) :
    t = digitsWritten s := by
  induction fuel generalizing s with
  | zero =>
    cases h
    exact (digitsWritten_of_zero (by simpa using hv)).symm
  | succ fuel ih =>
    unfold digitLoop at h
    split at h
    next h0 =>
      cases h
      exact (digitsWritten_of_zero h0).symm
    next h0 =>
      obtain ⟨a, ha, h⟩ := bind_eq_ok.mp h
      obtain ⟨-, rfl⟩ := txdig_ok.mp ha
      have hless : s.v / 94 < 2 ^ fuel := by
        rw [pow_succ] at hv
        omega
      rw [ih hless h, digitsWritten_txdig h0]

/-- The digit loop faults only for want of room in the text (R160). -/
theorem digitLoop_error {fuel : Nat} {s : State} {c : FaultCause} (h : digitLoop fuel s = .error c) :
    c = .capacityFault ∧ ∃ k, s.cfg.tcap = some k ∧ k < s.text.length + (Nat.digits 94 s.v).length := by
  induction fuel generalizing s with
  | zero => cases h
  | succ fuel ih =>
    unfold digitLoop at h
    split at h
    next => cases h
    next h0 =>
      rw [digits_cons h0, List.length_cons]
      obtain hfull | ⟨a, ha, h⟩ := bind_eq_error.mp h
      · obtain ⟨hroom, rfl⟩ := txdig_error.mp hfull
        obtain ⟨k, hk, hle⟩ := (textHasRoom_eq_false_iff s).mp hroom
        exact ⟨rfl, k, hk, by omega⟩
      · obtain ⟨-, rfl⟩ := txdig_ok.mp ha
        obtain ⟨rfl, k, hk, hlt⟩ := ih h
        simp only [List.length_append, List.length_singleton] at hlt
        exact ⟨rfl, k, hk, by omega⟩

theorem digitLoop_memoryWf {fuel : Nat} {s t : State} (hs : Memory.wf s = true) (h : digitLoop fuel s = .ok t) :
    Memory.wf t = true := by
  induction fuel generalizing s with
  | zero => cases h; exact hs
  | succ fuel ih =>
    unfold digitLoop at h
    split at h
    · cases h; exact hs
    · obtain ⟨a, ha, h⟩ := bind_eq_ok.mp h
      exact ih (txdig_memoryWf ha) h

/-- The loop of TXOUT starts on an empty text, which fits every capacity. -/
theorem memoryWf_clearText (s : State) : Memory.wf { s with text := [] } = true :=
  (memoryWf_iff _).mpr fun k _ => Nat.zero_le k

/-- TXOUT's three parts: the digits, a single `!` if there is none, the reversal (R160). -/
theorem txout_eq (s : State) : txout s =
    digitLoop (s.v.log2 + 1) { s with text := [] } >>= fun a =>
      ((if a.text = [] then txdig a else .ok a) >>= fun b => .ok (txrev b)) := by
  unfold txout
  congr
  funext a
  dsimp only
  split <;> rfl

/-- The state after a TXOUT that completes: the text of V, its most significant digit in R. -/
def written (s : State) : State :=
  { s with v := 0, text := textOf s.v, r := BitVec.ofNat 16 ((textDigits s.v).getLast?.getD 0) }

/-- Everything TXOUT does when it completes. -/
theorem txout_ok {s t : State} (h : txout s = .ok t) : t = written s := by
  rw [txout_eq] at h
  obtain ⟨a, hdigits, h⟩ := bind_eq_ok.mp h
  obtain ⟨b, hdigit, hrev⟩ := bind_eq_ok.mp h
  cases digitLoop_ok Nat.lt_log2_self hdigits
  cases hrev
  by_cases h0 : s.v = 0
  · simp only [digitsWritten, h0, Nat.digits_zero, List.map_nil, List.append_nil, if_true, txdig_ok] at hdigit
    obtain ⟨-, rfl⟩ := hdigit
    simp [h0, txrev, written, textOf, textDigits]
  · have hne : Nat.digits 94 s.v ≠ [] := Nat.digits_ne_nil_iff_ne_zero.mpr h0
    simp only [digitsWritten, List.nil_append, List.map_eq_nil_iff, if_neg hne] at hdigit
    cases hdigit
    simp [h0, txrev, written, textOf, textDigits, List.getLast?_eq_getLast_of_ne_nil hne]

/-- A completed TXOUT has written no more bytes than the text holds. -/
theorem txout_memoryWf {s t : State} (h : txout s = .ok t) : Memory.wf t = true := by
  rw [txout_eq] at h
  obtain ⟨a, hdigits, h⟩ := bind_eq_ok.mp h
  obtain ⟨b, hdigit, hrev⟩ := bind_eq_ok.mp h
  have ha := digitLoop_memoryWf (memoryWf_clearText s) hdigits
  cases hrev
  refine txrev_memoryWf ?_
  split at hdigit
  · exact txdig_memoryWf hdigit
  · cases hdigit
    exact ha

/-- TXOUT faults only because its digits do not fit (R160). -/
theorem txout_error {s : State} {c : FaultCause} (h : txout s = .error c) :
    c = .capacityFault ∧ ∃ k, s.cfg.tcap = some k ∧ k < (textDigits s.v).length := by
  rw [txout_eq] at h
  obtain hdigits | ⟨a, hdigits, h⟩ := bind_eq_error.mp h
  · obtain ⟨rfl, k, hk, hlt⟩ := digitLoop_error hdigits
    simp only [List.length_nil, Nat.zero_add] at hlt
    exact ⟨rfl, k, hk, hlt.trans_le (length_digits_le s.v)⟩
  · obtain hdigit | ⟨b, hdigit, h⟩ := bind_eq_error.mp h
    · split at hdigit
      next hempty =>
        obtain ⟨hroom, rfl⟩ := txdig_error.mp hdigit
        obtain ⟨k, hk, hle⟩ := (textHasRoom_eq_false_iff a).mp hroom
        rw [hempty] at hle
        rw [digitLoop_frame hdigits] at hk
        exact ⟨rfl, k, hk, hle.trans_lt (length_textDigits_pos s.v)⟩
      next => cases hdigit
    · cases h

/-! ### The value of a string (R154, R155) -/

/-- The data characters of a string, in order. -/
def dataCharacters (cs : List Byte) : List Byte := cs.filter isDataCharacter

/-- The value in base 94 of a string's data characters, the first the most significant. -/
def base94 (cs : List Byte) : Nat := Nat.ofDigits 94 ((dataCharacters cs).map characterDigit).reverse

theorem filter_eq_dataCharacters (cs : List Byte) :
    (cs.filter fun c => 33 ≤ c.toNat ∧ c.toNat ≤ 126) = dataCharacters cs :=
  List.filter_congr fun c _ => by simp [isDataCharacter]

theorem dataCharacters_append (cs ds : List Byte) : dataCharacters (cs ++ ds) = dataCharacters cs ++ dataCharacters ds :=
  List.filter_append ..

theorem dataCharacters_singleton (c : Byte) : dataCharacters [c] = if isDataCharacter c then [c] else [] :=
  List.filter_singleton.trans (Bool.cond_eq_ite ..)

theorem isDataCharacter_of_mem {cs : List Byte} {c : Byte} (h : c ∈ dataCharacters cs) : isDataCharacter c = true :=
  (List.mem_filter.mp h).2

theorem dataCharacters_eq_self {cs : List Byte} (h : ∀ c ∈ cs, isDataCharacter c = true) : dataCharacters cs = cs :=
  List.filter_eq_self.mpr h

theorem dataCharacters_idem (cs : List Byte) : dataCharacters (dataCharacters cs) = dataCharacters cs :=
  dataCharacters_eq_self fun _ => isDataCharacter_of_mem

theorem base94_append_data {c : Byte} (hd : isDataCharacter c = true) (cs : List Byte) :
    base94 (cs ++ [c]) = base94 cs * 94 + (c.toNat - 33) := by
  have hdigits : ((dataCharacters (cs ++ [c])).map characterDigit).reverse =
      (c.toNat - 33) :: ((dataCharacters cs).map characterDigit).reverse := by
    simp [dataCharacters_append, dataCharacters_singleton, hd, characterDigit]
  rw [base94, hdigits, Nat.ofDigits_cons, Nat.add_comm, Nat.mul_comm, base94]

theorem base94_append_noise {c : Byte} (hd : isDataCharacter c = false) (cs : List Byte) :
    base94 (cs ++ [c]) = base94 cs := by
  simp [base94, dataCharacters_append, dataCharacters_singleton, hd]

theorem base94_le_append (cs : List Byte) (c : Byte) : base94 cs ≤ base94 (cs ++ [c]) := by
  cases hd : isDataCharacter c with
  | true =>
    rw [base94_append_data hd]
    omega
  | false => rw [base94_append_noise hd]

/-! ### Loading a text (R154, R155, R244) -/

/-- The state after a text whose value fits V is loaded. -/
def loaded (cs : List Byte) (s : State) : State := { s with v := base94 cs, ne := !cs.isEmpty, text := [] }

theorem presentAll_loadText_nil {s : State} (herr : s.err = false) : presentAll (loadText []) s = .next (loaded [] s) :=
  presentAll_cons (present_encode herr rfl)

/-- A text one byte longer takes one TXIN more. -/
theorem presentAll_loadText_append {cs : List Byte} {c : Byte} {s a b : State}
    (hload : presentAll (loadText cs) s = .next a) (hc : present (encode (.txin c)) a = .next b) :
    presentAll (loadText (cs ++ [c])) s = .next b := by
  have happend : loadText (cs ++ [c]) = loadText cs ++ [.txin c] := by simp [loadText]
  rw [happend, presentAll_append hload, presentAll_cons hc, presentAll_nil]

theorem loaded_append_data {c : Byte} (hd : isDataCharacter c = true) (cs : List Byte) (s : State) :
    loaded (cs ++ [c]) s = { loaded cs s with v := base94 cs * 94 + (c.toNat - 33), ne := true } := by
  simp [loaded, base94_append_data hd]

theorem loaded_append_noise {c : Byte} (hd : isDataCharacter c = false) (cs : List Byte) (s : State) :
    loaded (cs ++ [c]) s = { loaded cs s with ne := true } := by
  simp [loaded, base94_append_noise hd]

/-- Everything loading a text can do: V takes the value of the string, or the value does not fit and a fault is recorded. -/
theorem presentAll_loadText_cases {s : State} (herr : s.err = false) (cs : List Byte) :
    (fitsV s.cfg (base94 cs) = true ∧ presentAll (loadText cs) s = .next (loaded cs s)) ∨
      (fitsV s.cfg (base94 cs) = false ∧ ∃ a, presentAll (loadText cs) s = .next a ∧ a.err = true) := by
  induction cs using List.reverseRecOn with
  | nil => exact .inl ⟨fitsV_zero s.cfg, presentAll_loadText_nil herr⟩
  | append_singleton cs c ih =>
    obtain ⟨hfits, hload⟩ | ⟨hover, a, hload, ha⟩ := ih
    · have hpresent : present (encode (.txin c)) (loaded cs s) = exec (.txin c) (loaded cs s) := present_txin herr
      cases hd : isDataCharacter c with
      | false =>
        rw [base94_append_noise hd, loaded_append_noise hd]
        exact .inl ⟨hfits, presentAll_loadText_append hload (hpresent.trans (exec_txin_of_noise hd))⟩
      | true =>
        rw [base94_append_data hd, loaded_append_data hd]
        cases hnext : fitsV s.cfg (base94 cs * 94 + (c.toNat - 33)) with
        | true =>
          exact .inl ⟨rfl, presentAll_loadText_append hload (hpresent.trans (exec_txin_of_fits hd hnext))⟩
        | false =>
          exact .inr ⟨rfl, _, presentAll_loadText_append hload (hpresent.trans (exec_txin_of_not_fits hd hnext)), rfl⟩
    · have hover' : fitsV s.cfg (base94 (cs ++ [c])) = false :=
        Bool.eq_false_iff.mpr fun h => by simp [fitsV_mono (base94_le_append cs c) h] at hover
      exact .inr ⟨hover', a, presentAll_loadText_append hload (present_txin_of_err ha), ha⟩

theorem presentAll_loadText_of_fits {s : State} (herr : s.err = false) {cs : List Byte}
    (hfits : fitsV s.cfg (base94 cs) = true) : presentAll (loadText cs) s = .next (loaded cs s) := by
  obtain ⟨-, hload⟩ | ⟨hover, -⟩ := presentAll_loadText_cases herr cs
  · exact hload
  · rw [hfits] at hover
    cases hover

/-- A load that ends without a fault has loaded the value of the string. -/
theorem eq_loaded_of_not_err {s a : State} {cs : List Byte} (herr : s.err = false)
    (hload : presentAll (loadText cs) s = .next a) (ha : a.err = false) : a = loaded cs s := by
  obtain ⟨-, hload'⟩ | ⟨-, b, hload', hb⟩ := presentAll_loadText_cases herr cs
  · cases hload.symm.trans hload'
    rfl
  · cases hload.symm.trans hload'
    rw [ha] at hb
    cases hb

/-! ### Noise in a text (R154) -/

/-- Two states the loading of a text does not tell apart: the same V, the same ERR, the same configuration. -/
structure SameLoad (a b : State) : Prop where
  v : a.v = b.v
  err : a.err = b.err
  cfg : a.cfg = b.cfg

/-- A byte that is no data character changes neither V nor ERR, whether it is taken or dropped. -/
theorem present_txin_noise {ch : Byte} (hd : isDataCharacter ch = false) {a b : State} (h : SameLoad a b) :
    ∃ a', present (encode (.txin ch)) a = .next a' ∧ SameLoad a' b := by
  cases herr : a.err with
  | true => exact ⟨a, present_txin_of_err herr, h⟩
  | false => exact ⟨_, (present_txin herr).trans (exec_txin_of_noise hd), h.v, h.err, h.cfg⟩

/-- V, ERR and the configuration decide what a data character does to V and ERR. -/
theorem present_txin_data {ch : Byte} (hd : isDataCharacter ch = true) {a b : State} (h : SameLoad a b) :
    ∃ a' b', present (encode (.txin ch)) a = .next a' ∧ present (encode (.txin ch)) b = .next b' ∧ SameLoad a' b' := by
  cases herr : a.err with
  | true => exact ⟨a, b, present_txin_of_err herr, present_txin_of_err (h.err ▸ herr), h⟩
  | false =>
    have hb : b.err = false := h.err ▸ herr
    have hval : a.v * 94 + (ch.toNat - 33) = b.v * 94 + (ch.toNat - 33) := by rw [h.v]
    rw [present_txin herr, present_txin hb]
    cases hfits : fitsV a.cfg (a.v * 94 + (ch.toNat - 33)) with
    | true =>
      exact ⟨_, _, exec_txin_of_fits hd hfits, exec_txin_of_fits hd (h.cfg ▸ hval ▸ hfits), hval, h.err, h.cfg⟩
    | false =>
      exact ⟨_, _, exec_txin_of_not_fits hd hfits, exec_txin_of_not_fits hd (h.cfg ▸ hval ▸ hfits), h.v, rfl, h.cfg⟩

/-- A string and its data characters load alike, a fault included. -/
theorem presentAll_loadText_dataCharacters {s : State} (herr : s.err = false) (cs : List Byte) :
    ∃ a b, presentAll (loadText cs) s = .next a ∧ presentAll (loadText (dataCharacters cs)) s = .next b ∧
      SameLoad a b := by
  induction cs using List.reverseRecOn with
  | nil => exact ⟨_, _, presentAll_loadText_nil herr, presentAll_loadText_nil herr, rfl, rfl, rfl⟩
  | append_singleton cs c ih =>
    obtain ⟨a, b, ha, hb, hab⟩ := ih
    rw [dataCharacters_append, dataCharacters_singleton]
    cases hd : isDataCharacter c with
    | true =>
      obtain ⟨a', b', ha', hb', hab'⟩ := present_txin_data hd hab
      exact ⟨a', b', presentAll_loadText_append ha ha', presentAll_loadText_append hb hb', hab'⟩
    | false =>
      obtain ⟨a', ha', hab'⟩ := present_txin_noise hd hab
      exact ⟨a', b, presentAll_loadText_append ha ha', by simpa using hb, hab'⟩

/-! ### TXOUT and loading undo each other (R161) -/

theorem map_characterDigit_textOf (v : Nat) : (textOf v).map characterDigit = (textDigits v).reverse := by
  have hback : ∀ d ∈ (textDigits v).reverse, characterDigit (digitCharacter d) = d := fun d hd =>
    characterDigit_digitCharacter (textDigits_lt (List.mem_reverse.mp hd))
  rw [textOf, List.map_map]
  exact (List.map_congr_left hback).trans (List.map_id _)

theorem isDataCharacter_of_mem_textOf {v : Nat} {c : Byte} (h : c ∈ textOf v) : isDataCharacter c = true := by
  obtain ⟨d, hd, rfl⟩ := List.mem_map.mp h
  exact isDataCharacter_digitCharacter (textDigits_lt (List.mem_reverse.mp hd))

/-- The text of V has V as its value. -/
theorem base94_textOf (v : Nat) : base94 (textOf v) = v := by
  have hdata : dataCharacters (textOf v) = textOf v := dataCharacters_eq_self fun _ => isDataCharacter_of_mem_textOf
  rw [base94, hdata, map_characterDigit_textOf, List.reverse_reverse, ofDigits_textDigits]

/-- The data characters of a string from the first that is not `!` on. -/
def significant (cs : List Byte) : List Byte := (dataCharacters cs).dropWhile fun c => c = 33#8

/-- A leading `!` is a leading zero digit. -/
theorem base94_cons_zero (cs : List Byte) : base94 (33#8 :: cs) = base94 cs := by
  have hcons : dataCharacters (33#8 :: cs) = 33#8 :: dataCharacters cs := rfl
  have hzero : characterDigit 33#8 = 0 := rfl
  simp [base94, hcons, hzero, Nat.ofDigits_append]

theorem base94_dropWhile (cs : List Byte) : base94 (cs.dropWhile fun c => c = 33#8) = base94 cs := by
  induction cs with
  | nil => rfl
  | cons c cs ih =>
    by_cases hc : c = 33#8
    · subst hc
      rw [base94_cons_zero, ← ih]
      simp
    · simp [hc]

theorem base94_significant (cs : List Byte) : base94 (significant cs) = base94 cs := by
  rw [significant, base94_dropWhile, base94, dataCharacters_idem, base94]

/-- Data characters that do not begin with `!` are the text of their value: there is no leading zero digit. -/
theorem textOf_base94_of_head {c : Byte} {cs : List Byte} (hdata : ∀ x ∈ c :: cs, isDataCharacter x = true)
    (hc : c ≠ 33#8) : textOf (base94 (c :: cs)) = c :: cs := by
  have hself : dataCharacters (c :: cs) = c :: cs := dataCharacters_eq_self hdata
  have hdigits : Nat.digits 94 (base94 (c :: cs)) = ((c :: cs).map characterDigit).reverse := by
    rw [base94, hself]
    refine Nat.digits_ofDigits 94 (by decide) _ ?_ ?_
    · intro d hd
      obtain ⟨x, hx, rfl⟩ := List.mem_map.mp (List.mem_reverse.mp hd)
      exact characterDigit_lt (hdata x hx)
    · intro hne
      rw [List.getLast_reverse]
      exact mt (characterDigit_eq_zero_iff (hdata c List.mem_cons_self)).mp hc
  have hne : base94 (c :: cs) ≠ 0 := fun h0 => by simp [h0] at hdigits
  rw [textOf, textDigits, if_neg hne, hdigits, List.reverse_reverse, List.map_map]
  exact (List.map_congr_left fun x hx => digitCharacter_characterDigit (hdata x hx)).trans (List.map_id _)

/-- The text of a string's value: its significant characters, or a single `!` (R161). -/
theorem textOf_base94 (cs : List Byte) :
    textOf (base94 cs) = if significant cs = [] then [33#8] else significant cs := by
  rw [← base94_significant]
  cases h : significant cs with
  | nil => rfl
  | cons c rest =>
    have hmem : ∀ x ∈ c :: rest, isDataCharacter x = true := fun x hx =>
      isDataCharacter_of_mem ((List.dropWhile_sublist _).subset (h ▸ hx))
    have hhead : c ≠ 33#8 := by
      have hfirst := List.head?_dropWhile_not (fun c : Byte => c = 33#8) (dataCharacters cs)
      rw [← significant, h] at hfirst
      simpa using hfirst
    rw [textOf_base94_of_head hmem hhead, if_neg (List.cons_ne_nil c rest)]

/-! ### The command TXOUT (R160) -/

theorem exec_txout_of_ok {s t : State} (h : txout s = .ok t) : exec .txout s = .next t :=
  congrArg Host.Outcome.next (settleMacro_of_ok h)

theorem exec_txout_of_error {s : State} {c : FaultCause} (h : txout s = .error c) :
    exec .txout s = .next (raise c (encode .txout) (scramble txoutFootprint s)) :=
  congrArg Host.Outcome.next (settleMacro_of_error h)

/-- Everything TXOUT can do: write the text of V, or, if the digits do not fit, record the fault (R160). -/
theorem exec_txout_cases (s : State) :
    ((∀ k, s.cfg.tcap = some k → (textDigits s.v).length ≤ k) ∧ exec .txout s = .next (written s)) ∨
      ((∃ k, s.cfg.tcap = some k ∧ k < (textDigits s.v).length) ∧
        exec .txout s = .next (raise .capacityFault (encode .txout) (scramble txoutFootprint s))) := by
  cases h : txout s with
  | ok t =>
    have hwf := (memoryWf_iff t).mp (txout_memoryWf h)
    cases txout_ok h
    refine .inl ⟨fun k hk => ?_, exec_txout_of_ok h⟩
    simpa [written, textOf] using hwf k hk
  | error c =>
    obtain ⟨rfl, hfull⟩ := txout_error h
    exact .inr ⟨hfull, exec_txout_of_error h⟩

end Sys2Proof.Machine

namespace Sys2Proof.Proofs

open Sys2Proof.Machine

/-- Settles O33: the two ways TXOUT can end exclude each other. -/
theorem txoutWritesBase94 : Obligations.TxoutWritesBase94 := by
  refine ⟨rfl, fun s => ?_⟩
  obtain ⟨hfits, hexec⟩ | ⟨⟨k, hk, hlt⟩, hexec⟩ := exec_txout_cases s
  · exact ⟨fun _ => hexec, fun ⟨k, hk, hlt⟩ => absurd (hfits k hk) (Nat.not_le.mpr hlt)⟩
  · exact ⟨fun hfits => absurd (hfits k hk) (Nat.not_le.mpr hlt), fun _ => ⟨_, _, _, hexec⟩⟩

/-- Settles O35: the value fits V, so no TXIN of the string faults. -/
theorem textLoadGivesBase94Value : Obligations.TextLoadGivesBase94Value := by
  intro cs s herr
  simp only [filter_eq_dataCharacters]
  exact fun hfits => presentAll_loadText_of_fits herr ((fitsV_iff _ _).mpr hfits)

/-- Settles O36: a byte that is no data character changes neither V nor ERR, and a load without a fault sets NE from the first
byte on. -/
theorem textLoadIgnoresNoise : Obligations.TextLoadIgnoresNoise := by
  intro cs s herr
  rw [filter_eq_dataCharacters]
  obtain ⟨a, b, ha, hb, hab⟩ := presentAll_loadText_dataCharacters herr cs
  refine ⟨a, b, ha, hb, hab.v, hab.err, fun haerr hcs => ?_⟩
  have hempty : (dataCharacters cs).isEmpty = cs.isEmpty := by
    obtain rfl | ⟨c, hmem, hdata⟩ := hcs
    · rfl
    · have hkept : c ∈ dataCharacters cs := List.mem_filter.mpr ⟨hmem, (isDataCharacter_iff c).mpr hdata⟩
      rw [List.isEmpty_eq_false_iff_exists_mem.mpr ⟨c, hkept⟩, List.isEmpty_eq_false_iff_exists_mem.mpr ⟨c, hmem⟩]
  rw [eq_loaded_of_not_err herr ha haerr, eq_loaded_of_not_err herr hb (hab.err ▸ haerr)]
  exact congrArg not hempty.symm

/-- Settles O37: a text has its V as value (`base94_textOf`), and a value's text is the significant characters of the string
(`textOf_base94`). -/
theorem textRoundTrip : Obligations.TextRoundTrip := by
  constructor
  · intro s herr hfits
    obtain ⟨-, hexec⟩ | ⟨⟨k, hk, -⟩, hexec⟩ := exec_txout_cases s
    · have hload : presentAll (loadText (textOf s.v)) (written s) = .next (loaded (textOf s.v) (written s)) :=
        presentAll_loadText_of_fits (s := written s) herr ((fitsV_iff _ _).mpr (by rwa [base94_textOf]))
      exact ⟨_, hexec, fun _ => herr, fun _ => ⟨_, hload, base94_textOf s.v, herr⟩⟩
    · exact ⟨_, hexec, fun hnone => by simp [hnone] at hk, fun h => by simp at h⟩
  · intro cs s a herr hload haerr
    rw [filter_eq_dataCharacters]
    cases eq_loaded_of_not_err herr hload haerr
    obtain ⟨-, hexec⟩ | ⟨⟨k, hk, -⟩, hexec⟩ := exec_txout_cases (loaded cs s)
    · exact ⟨_, hexec, fun _ => herr, fun _ => textOf_base94 cs⟩
    · exact ⟨_, hexec, fun hnone => by simp [loaded, hnone] at hk, fun h => by simp at h⟩

/-- Settles O29: V is 0 afterwards, which STATUS.Z shows. -/
theorem txbegStartsText : Obligations.TxbegStartsText :=
  ⟨rfl, fun _ => ⟨rfl, rfl, readRegister_status_zeroFlag _⟩⟩

/-- Settles O30: the three cases are whether the byte is a data character and whether the new value fits V. -/
theorem txinFoldsCharacter : Obligations.TxinFoldsCharacter :=
  fun ch _ => ⟨packWord_eq_ofNat 0x21#8 0#8 0#8 ch,
    fun hd hfits => exec_txin_of_fits ((isDataCharacter_iff ch).mpr hd) ((fitsV_iff _ _).mpr hfits),
    fun hd hover => exec_txin_of_not_fits ((isDataCharacter_iff ch).mpr hd) ((fitsV_eq_false_iff _ _).mpr hover),
    fun hd => exec_txin_of_noise ((isDataCharacter_eq_false_iff ch).mpr hd)⟩

/-- Settles O31: the two cases are whether the text has room. -/
theorem txdigExtractsDigit : Obligations.TxdigExtractsDigit := by
  refine ⟨rfl, fun s => ⟨fun hroom => ?_, fun hfull => ?_⟩⟩
  · exact ⟨digitCharacter (s.v % 94), toNat_digitCharacter (Nat.mod_lt _ (by decide)),
      congrArg Host.Outcome.next (settle_of_ok (txdig_ok.mpr ⟨(textHasRoom_iff s).mpr hroom, rfl⟩))⟩
  · exact congrArg Host.Outcome.next
      (settle_of_error (txdig_error.mpr ⟨(textHasRoom_eq_false_iff s).mpr hfull, rfl⟩))

/-- Settles O32: the text is reversed, and a list reversed twice is the list. -/
theorem txrevReversesText : Obligations.TxrevReversesText := by
  refine ⟨rfl, fun s => ⟨s.text.reverse, rfl, List.length_reverse, fun i hi => List.getElem?_reverse hi, ?_⟩⟩
  show Host.Outcome.next { s with text := s.text.reverse.reverse } = .next s
  rw [List.reverse_reverse]

/-- Settles O34: the two cases are whether the index is below TLEN. -/
theorem trdReadsTextByte : Obligations.TrdReadsTextByte :=
  fun i _ => ⟨packImm_eq_ofNat 0x25#8 i 0#8,
    fun c hc => congrArg Host.Outcome.next (settle_of_ok (readText_ok.mpr ⟨c, hc, rfl⟩)),
    fun hle => congrArg Host.Outcome.next (settle_of_error (readText_error.mpr ⟨hle, rfl⟩))⟩

end Sys2Proof.Proofs

/-! PROOF. The statements of bitmap access (spec/43_bitmap.md): the words of the commands and their illegal operands, the pixel
stream at PTR, and a whole image loaded pixel by pixel. -/

namespace Sys2Proof

/-! ### Must-be-zero bits of the last byte (R92) -/

theorem extractLsb'_cField (w : Command) {start len : Nat} (h : start + len ≤ 8) :
    (cField w).extractLsb' start len = w.extractLsb' start len := by
  ext i hi
  simp [cField, show start + i < 8 by omega]

/-- A word whose last byte breaks the mask of its opcode's row is illegal. -/
theorem decode_error_of_cField {w : Command} {i : Instr} (hop : opField w = opField i.tableRow.1)
    (hc : cField w &&& cField i.tableRow.2 ≠ cField i.tableRow.1) : ∃ e, decode w = .error e := by
  refine decode_error_of_opField hop (Bool.eq_false_iff.mpr fun hsel => hc ?_)
  rw [← selectedBy_iff.mp hsel]
  exact BitVec.extractLsb'_and.symm

/-- In a row whose last byte holds one bit, the seven bits above it must be zero. -/
theorem decode_error_of_bit_field {w : Command} {i : Instr} (hop : opField w = opField i.tableRow.1)
    (hmask : cField i.tableRow.2 = 0xFE#8) (hmatch : cField i.tableRow.1 = 0#8) (hbits : w.extractLsb' 1 7 ≠ 0#7) :
    ∃ e, decode w = .error e := by
  refine decode_error_of_cField hop fun hc => hbits ?_
  rw [hmask, hmatch] at hc
  rw [← extractLsb'_cField w (by decide), above_bit_eq_zero_iff.mpr hc]

end Sys2Proof

namespace Sys2Proof.Machine

/-! ### The words of the commands (R90) -/

/-- The word of a command whose last byte holds one bit (R91, R99). -/
theorem packWord_bit (op a b : Byte) (v : BitVec 1) :
    packWord op a b (v.setWidth 8) =
      BitVec.ofNat 32 (op.toNat * 2 ^ 24 + a.toNat * 65536 + b.toNat * 256 + v.toNat) := by
  rw [packWord_eq_ofNat, BitVec.toNat_setWidth_of_le (by decide)]

/-! ### Commands that name a pixel (R172, R178, R179) -/

theorem coordinateOk_iff (x y : Byte) : coordinateOk x y = true ↔ x.toNat ≤ 47 ∧ y.toNat ≤ 47 := by
  simp [coordinateOk]

section Coordinates

variable {i : Instr} {x y : Byte} (hi : i = .bptr x y ∨ (∃ v, i = .bset x y v) ∨ i = .bget x y)

include hi

/-- BPTR, BSET and BGET have one range check. -/
theorem wellFormed_of_coordinate : i.wellFormed = coordinateOk x y := by
  obtain rfl | ⟨v, rfl⟩ | rfl := hi <;> cases h : coordinateOk x y <;> simp [Instr.wellFormed, Instr.violation, h]

theorem wellFormed_of_coordinate_inside (hx : x.toNat ≤ 47) (hy : y.toNat ≤ 47) : i.wellFormed = true :=
  (wellFormed_of_coordinate hi).trans ((coordinateOk_iff x y).mpr ⟨hx, hy⟩)

theorem exec_of_coordinate_outside (hout : 47 < x.toNat ∨ 47 < y.toNat) (s : State) :
    exec i s = .next (raise .illegalCommand (encode i) s) := by
  refine exec_of_not_wellFormed ?_ s
  rw [wellFormed_of_coordinate hi, ← Bool.not_eq_true, coordinateOk_iff]
  omega

end Coordinates

section Inside

variable {x y : Byte} (hx : x.toNat ≤ 47) (hy : y.toNat ≤ 47)

include hx hy

theorem exec_bptr_of_inside (s : State) :
    exec (.bptr x y) s = .next { s with ptr := BitVec.ofNat 12 (rasterIndex x.toNat y.toNat) } :=
  congrArg Host.Outcome.next (checked_of_wellFormed (wellFormed_of_coordinate_inside (.inl rfl) hx hy))

theorem exec_bset_of_inside (v : BitVec 1) (s : State) :
    exec (.bset x y v) s = .next { s with bitmap := setPixelAt s.bitmap x.toNat y.toNat (v == 1#1) } :=
  congrArg Host.Outcome.next (checked_of_wellFormed (wellFormed_of_coordinate_inside (.inr (.inl ⟨v, rfl⟩)) hx hy))

theorem exec_bget_of_inside (s : State) :
    exec (.bget x y) s = .next { s with r := pixelWord (pixelAt s.bitmap x.toNat y.toNat) } :=
  congrArg Host.Outcome.next (checked_of_wellFormed (wellFormed_of_coordinate_inside (.inr (.inr rfl)) hx hy))

end Inside

theorem pixelWord_eq (p : Bool) : pixelWord p = if p then 1 else 0 := by
  cases p <;> rfl

/-! ### The pixel stream (R171, R174, R176) -/

theorem toNat_advancePtr (p : BitVec 12) : (advancePtr p).toNat = (p.toNat + 1) % 2304 := by
  rw [advancePtr, BitVec.toNat_ofNat]
  omega

theorem toNat_advancePtr_of_lt {p : BitVec 12} (h : p.toNat < 2304) :
    (advancePtr p).toNat = if p.toNat = 2303 then 0 else p.toNat + 1 := by
  rw [toNat_advancePtr]
  split <;> omega

/-- The normalisation rule (R175). -/
theorem isBlack_iff (red green blue : Byte) :
    isBlack red green blue = true ↔ red.toNat = 0 ∧ green.toNat = 0 ∧ blue.toNat = 0 := by
  simp [isBlack, BitVec.toNat_eq, and_assoc]

theorem pixel_streamPixel {s : State} (h : s.ptr.toNat < 2304) (p : Bool) (j : Nat) :
    pixel (streamPixel p s).bitmap j = if j = s.ptr.toNat then p else pixel s.bitmap j :=
  pixel_setPixel s.bitmap h p j

theorem exec_bbit_ofBool (p : Bool) (s : State) : exec (.bbit (BitVec.ofBool p)) s = .next (streamPixel p s) := by
  cases p <;> rfl

/-! ### A whole image (R244) -/

/-- The state after the pixels `ps` are streamed one after another. -/
def streamed (ps : List Bool) (s : State) : State := ps.foldl (fun t p => streamPixel p t) s

theorem streamed_append_singleton (ps : List Bool) (p : Bool) (s : State) :
    streamed (ps ++ [p]) s = streamPixel p (streamed ps s) :=
  List.foldl_append

/-- Streaming pixels is presenting one BBIT for each. -/
theorem presentAll_bbits (ps : List Bool) {s : State} (herr : s.err = false) :
    presentAll (ps.map fun p => .bbit (BitVec.ofBool p)) s = .next (streamed ps s) := by
  induction ps generalizing s with
  | nil => rfl
  | cons p ps ih =>
    have hp : present (encode (.bbit (BitVec.ofBool p))) s = .next (streamPixel p s) :=
      (present_encode herr rfl).trans (exec_bbit_ofBool p s)
    rw [List.map_cons, presentAll_cons hp]
    exact ih herr

/-- Streaming writes the bitmap and PTR only. -/
theorem streamed_frame (ps : List Bool) (s : State) :
    streamed ps s = { s with bitmap := (streamed ps s).bitmap, ptr := (streamed ps s).ptr } := by
  induction ps using List.reverseRecOn with
  | nil => rfl
  | append_singleton ps p ih =>
    rw [streamed_append_singleton]
    nth_rw 1 [ih]
    rfl

theorem toNat_ptr_streamed {s : State} (hptr : s.ptr = 0) (ps : List Bool) :
    (streamed ps s).ptr.toNat = ps.length % 2304 := by
  induction ps using List.reverseRecOn with
  | nil => simp [streamed, hptr]
  | append_singleton ps p ih =>
    rw [streamed_append_singleton, streamPixel_ptr, toNat_advancePtr, ih, List.length_append, List.length_singleton]
    omega

/-- From PTR 0 the pixel of raster index j is the j-th of the stream, the others are as they were (R170, R171). -/
theorem pixel_streamed {s : State} (hptr : s.ptr = 0) {ps : List Bool} (hlen : ps.length ≤ 2304) (j : Nat) :
    pixel (streamed ps s).bitmap j = ps[j]?.getD (pixel s.bitmap j) := by
  induction ps using List.reverseRecOn with
  | nil => rfl
  | append_singleton ps p ih =>
    rw [List.length_append, List.length_singleton] at hlen
    have hat : (streamed ps s).ptr.toNat = ps.length := by
      rw [toNat_ptr_streamed hptr]
      omega
    rw [streamed_append_singleton, pixel_streamPixel (by omega), hat, ih (by omega), List.getElem?_append]
    obtain hlt | rfl | hgt := Nat.lt_trichotomy j ps.length
    · rw [if_neg hlt.ne, if_pos hlt]
    · simp
    · rw [if_neg hgt.ne', if_neg hgt.not_gt, List.getElem?_eq_none hgt.le, List.getElem?_eq_none (by simp; omega)]

/-- The image recipe points PTR at pixel (0, 0) and streams. -/
theorem presentAll_loadImage (ps : List Bool) {s : State} (herr : s.err = false) :
    presentAll (loadImage ps) s = .next (streamed ps { s with ptr := 0 }) := by
  have hbptr : present (encode (.bptr 0 0)) s = .next { s with ptr := 0 } :=
    (present_encode herr rfl).trans (exec_bptr_of_inside (by decide) (by decide) s)
  rw [loadImage, presentAll_cons hbptr]
  exact presentAll_bbits ps herr

end Sys2Proof.Machine

namespace Sys2Proof.Proofs

open Sys2Proof.Machine

/-- Settles O44: the stream starts at raster index 0 and its 2304 pixels wrap PTR to 0 once. -/
theorem imageLoadWritesEveryPixel : Obligations.ImageLoadWritesEveryPixel := by
  intro pixels s herr hlen
  have hptr : (streamed pixels { s with ptr := 0 }).ptr = 0 := by
    apply BitVec.eq_of_toNat_eq
    rw [toNat_ptr_streamed rfl, hlen]
    rfl
  refine ⟨(streamed pixels { s with ptr := 0 }).bitmap, ?_, fun y hy x hx => ?_⟩
  · rw [presentAll_loadImage pixels herr, streamed_frame, hptr]
  · have hlt : y * 48 + x < pixels.length := by omega
    rw [← pixel_rasterIndex _ hx, pixel_streamed rfl hlen.le, rasterIndex, List.getElem?_eq_getElem hlt]
    rfl

/-- Settles O38: BCLR leaves `whiteBitmap`, which reads white everywhere. -/
theorem bclrWhitensEveryPixel : Obligations.BclrWhitensEveryPixel := by
  refine ⟨rfl, fun s => ⟨whiteBitmap, rfl, pixelAt_whiteBitmap, fun x y hx hy => ?_⟩⟩
  rw [exec_bget_of_inside hx hy, pixelAt_whiteBitmap]
  rfl

/-- Settles O39: an index of the grid fits PTR's twelve bits, and a coordinate outside makes each of the three commands
ill-formed. -/
theorem bptrSetsPointer : Obligations.BptrSetsPointer := by
  refine fun x y s => ⟨packWord_eq_ofNat 0x31#8 x y 0#8, fun hx hy => ⟨_, exec_bptr_of_inside hx hy s, ?_⟩,
    fun hout i hi => exec_of_coordinate_outside hi hout s⟩
  rw [BitVec.toNat_ofNat, rasterIndex]
  omega

/-- Settles O40: BBIT streams its bit. -/
theorem bbitStreamsPixel : Obligations.BbitStreamsPixel := by
  refine ⟨fun w hop => decode_error_of_bit_field (i := .bbit 0) hop rfl rfl, fun v s hptr => ?_⟩
  refine ⟨packWord_bit 0x32#8 0#8 0#8 v, _, _, rfl, toNat_advancePtr_of_lt hptr, ?_, fun j hj => ?_⟩
  · rw [pixel_setPixel _ hptr, if_pos rfl]
  · rw [pixel_setPixel _ hptr, if_neg hj]

/-- Settles O41: BRGB streams the normalised colour. -/
theorem brgbNormalisesPixel : Obligations.BrgbNormalisesPixel := by
  intro red green blue s hptr
  refine ⟨packWord_eq_ofNat 0x33#8 red green blue, _, _, rfl, toNat_advancePtr_of_lt hptr, ?_, fun j hj => ?_⟩
  · rw [pixel_setPixel _ hptr, if_pos rfl, isBlack_iff]
  · rw [pixel_setPixel _ hptr, if_neg hj]

/-- Settles O42: the word R receives is the pixel's 0 or 1 (`pixelWord_eq`). -/
theorem brdReadsPixel : Obligations.BrdReadsPixel := by
  refine ⟨rfl, fun s hptr => ⟨advancePtr s.ptr, toNat_advancePtr_of_lt hptr, ?_⟩⟩
  rw [← pixelWord_eq]
  rfl

/-- Settles O43: inside the grid one pixel is written or read (`pixelAt_setPixelAt`), outside it both commands are ill-formed. -/
theorem bsetWritesAndBgetReadsOnePixel : Obligations.BsetWritesAndBgetReadsOnePixel := by
  refine ⟨fun w hop => decode_error_of_bit_field (i := .bset 0 0 0) hop rfl rfl,
    fun w hop hc => decode_error_of_cField (i := .bget 0 0) hop fun h => hc ((and_full_byte _).symm.trans h),
    fun x y v s => ⟨packWord_bit 0x35#8 x y v, packWord_eq_ofNat 0x36#8 x y 0#8, fun hx hy => ⟨?_, ?_⟩, fun hout => ?_⟩⟩
  · exact ⟨_, exec_bset_of_inside hx hy v s,
      pixelAt_setPixelAt s.bitmap (Nat.lt_succ_of_le hx) (Nat.lt_succ_of_le hy) (v == 1#1)⟩
  · rw [exec_bget_of_inside hx hy, pixelWord_eq]
  · exact ⟨exec_of_coordinate_outside (.inr (.inl ⟨v, rfl⟩)) hout s, exec_of_coordinate_outside (.inr (.inr rfl)) hout s⟩

end Sys2Proof.Proofs

/-! PROOF. The statements of the quad-tree engine (spec/44_quadtree.md): what DLEAF, DRG, ELEAF and ERG do on one region, that a
larger region is its four quadrants one after another, and that encoding and decoding a region are inverse to each other. -/

namespace Sys2Proof.Machine

/-! ### Procedures one after another (R14) -/

/-- `p`, then `q` on the state `p` leaves. -/
def andThen (p q : Proc) : Proc := fun s => p s >>= q

section AndThen

variable {p q : Proc} {s t u : State} {c : FaultCause}

theorem andThen_of_ok (h : p s = .ok u) : andThen p q s = q u := by
  rw [andThen, h]
  rfl

theorem andThen_of_error (h : p s = .error c) : andThen p q s = .error c := by
  rw [andThen, h]
  rfl

theorem andThen_ok : andThen p q s = .ok t ↔ ∃ u, p s = .ok u ∧ q u = .ok t := bind_eq_ok

theorem andThen_error : andThen p q s = .error c ↔ p s = .error c ∨ ∃ u, p s = .ok u ∧ q u = .error c := bind_eq_error

theorem andThen_assoc (p q r : Proc) : andThen (andThen p q) r = andThen p (andThen q r) :=
  funext fun s => bind_assoc (p s) q r

end AndThen

/-! ### Commands presented one after another that do what a procedure does (R244, R271, R272) -/

/-- The commands `is`, presented one after another, do what the procedure `p` does: they end in its state, or with its fault
recorded. A faulted machine drops them all. -/
structure Does (is : List Instr) (p : Proc) : Prop where
  ok : ∀ {s t}, s.err = false → p s = .ok t → presentAll is s = .next t ∧ t.err = false
  error : ∀ {s c}, s.err = false → p s = .error c → ∃ u, presentAll is s = .next u ∧ u.err = true ∧ u.cause = some c
  dropped : ∀ {s}, s.err = true → presentAll is s = .next s

/-- The command `i` of many steps runs the procedure `p`: it ends in the state of `p`, or in the fault of `p` raised inside it
(R272). -/
structure RunsInside (i : Instr) (p : Proc) : Prop where
  ok : ∀ {s t}, p s = .ok t → exec i s = .next t
  error : ∀ {s c}, p s = .error c → faultsInside i s c

/-- The first sequence, then the second, does the first procedure, then the second: a fault in the first sequence makes the
machine drop the second. -/
theorem Does.append {is js : List Instr} {p q : Proc} (hp : Does is p) (hq : Does js q) : Does (is ++ js) (andThen p q) where
  ok herr h := by
    obtain ⟨u, hu, ht⟩ := andThen_ok.mp h
    obtain ⟨hnext, herru⟩ := hp.ok herr hu
    rw [presentAll_append hnext]
    exact hq.ok herru ht
  error herr h := by
    obtain h | ⟨u, hu, h⟩ := andThen_error.mp h
    · obtain ⟨u, hnext, herru, hcause⟩ := hp.error herr h
      exact ⟨u, (presentAll_append hnext).trans (hq.dropped herru), herru, hcause⟩
    · obtain ⟨hnext, herru⟩ := hp.ok herr hu
      rw [presentAll_append hnext]
      exact hq.error herru h
  dropped herr := (presentAll_append (hp.dropped herr)).trans (hq.dropped herr)

theorem presentAll_singleton (i : Instr) (s : State) : presentAll [i] s = present (encode i) s := by
  obtain ⟨t, ht⟩ := present_answers_next (encode i) s
  rw [presentAll_cons ht, ht, presentAll_nil]

/-- Two commands have two words (R98). -/
theorem encode_injective {i j : Instr} (h : encode i = encode j) : i = j := by
  have := decodeRow_encode i
  rw [h, decodeRow_encode] at this
  exact (Except.ok.inj this).symm

/-- A faulted machine drops every command but ECLR and SRST (R273). -/
theorem present_of_err {i : Instr} {s : State} (herr : s.err = true) (heclr : i ≠ .eclr) (hsrst : i ≠ .srst) :
    present (encode i) s = .next s := by
  apply present_of_not_accepts
  have h1 : encode i ≠ 0x70000000#32 := fun h => heclr (encode_injective h)
  have h2 : encode i ≠ 0x71000000#32 := fun h => hsrst (encode_injective h)
  simp [accepts, herr, h1, h2]

/-- One command does a procedure when its own rule does. -/
theorem does_of_exec {i : Instr} {p : Proc} (hwf : i.wellFormed = true) (heclr : i ≠ .eclr) (hsrst : i ≠ .srst)
    (hok : ∀ {s t}, p s = .ok t → exec i s = .next t ∧ t.err = s.err)
    (herror : ∀ {s c}, p s = .error c → ∃ u, exec i s = .next u ∧ u.err = true ∧ u.cause = some c) : Does [i] p where
  ok herr h := by
    rw [presentAll_singleton, present_encode herr hwf]
    obtain ⟨hexec, hkeep⟩ := hok h
    exact ⟨hexec, hkeep.trans herr⟩
  error herr h := by
    rw [presentAll_singleton, present_encode herr hwf]
    exact herror h
  dropped herr := (presentAll_singleton _ _).trans (present_of_err herr heclr hsrst)

theorem Does.exec_of_ok {i : Instr} {p : Proc} {s t : State} (h : Does [i] p) (hwf : i.wellFormed = true)
    (herr : s.err = false) (hp : p s = .ok t) : exec i s = .next t := by
  rw [← present_encode herr hwf, ← presentAll_singleton]
  exact (h.ok herr hp).1

section RunsInside

variable {i : Instr} {p q : Proc} {s s1 t : State} {is : List Instr} {c : FaultCause}

theorem runsInside_of_checked (hwf : i.wellFormed = true)
    (hexec : ∀ s, exec i s = .next (checked i (settleMacro (encode i) (mayWrite i) p) s)) : RunsInside i p := by
  have hsettle s : exec i s = .next (settleMacro (encode i) (mayWrite i) p s) := by rw [hexec, checked_of_wellFormed hwf]
  exact ⟨fun h => by rw [hsettle, settleMacro_of_ok h], fun h => faultsInside_of_settleMacro (hsettle _) h id id id id⟩

theorem RunsInside.does (h : RunsInside i p) (hwf : i.wellFormed = true) (heclr : i ≠ .eclr) (hsrst : i ≠ .srst)
    (hkeep : ∀ {s t}, p s = .ok t → t.err = s.err) : Does [i] p :=
  does_of_exec hwf heclr hsrst (fun hp => ⟨h.ok hp, hkeep hp⟩) fun hp => by
    obtain ⟨v, r, b, txt, hexec, -⟩ := h.error hp
    exact ⟨_, hexec, rfl, rfl⟩

/-- Such a command ends without a fault only if its procedure completes. -/
theorem RunsInside.ok_of_exec (h : RunsInside i p) (hexec : exec i s = .next t) (herr : t.err = false) : p s = .ok t := by
  cases hp : p s with
  | ok u =>
    cases (h.ok hp).symm.trans hexec
    rfl
  | error c =>
    obtain ⟨v, r, b, txt, hfault, -⟩ := h.error hp
    cases hfault.symm.trans hexec
    cases herr

/-- Such a command acts as any sequence of commands that does what its procedure does. -/
theorem RunsInside.actsAs (h : RunsInside i p) (hdoes : Does is q) (herr : s1.err = false) (heq : p s = q s1) :
    actsAs i s is s1 := by
  cases hq : q s1 with
  | ok u =>
    obtain ⟨hnext, herru⟩ := hdoes.ok herr hq
    exact actsAs_of_next hnext (fun _ => h.ok (heq.trans hq)) fun hu => absurd (hu.symm.trans herru) (by decide)
  | error c =>
    obtain ⟨u, hnext, herru, hcause⟩ := hdoes.error herr hq
    exact actsAs_of_next hnext (fun hu => absurd (herru.symm.trans hu) (by decide))
      fun _ => ⟨c, hcause, h.error (heq.trans hq)⟩

end RunsInside

/-! ### POP and PUSH as procedures (R141, R143) -/

/-- POP that ends without a fault is `pop` completing. -/
theorem pop_of_exec_pop {t : Byte} (ht : t.toNat ≤ 4) {s s1 : State} (hexec : exec (.pop t) s = .next s1)
    (herr : s1.err = false) : pop t.toNat s = .ok s1 := by
  rw [exec_pop_of_selector ht] at hexec
  obtain ⟨u, hu, he⟩ | ⟨c, -, he⟩ := settle_cases (encode (.pop t)) (pop t.toNat) s
  · cases he.symm.trans (Host.Outcome.next.inj hexec)
    exact hu
  · cases he.symm.trans (Host.Outcome.next.inj hexec)
    cases herr

theorem exec_pop_of_ok {t : Byte} (ht : t.toNat ≤ 4) {s s1 : State} (h : pop t.toNat s = .ok s1) :
    exec (.pop t) s = .next s1 := by
  rw [exec_pop_of_selector ht, settle_of_ok h]

/-- `pop` writes V and R only, and leaves in R the number of a row with a count. -/
theorem pop_row {t : Nat} {s s1 : State} (h : pop t s = .ok s1) : s1 = { s with v := s1.v, r := s1.r } ∧
    ∃ r < rowCount t, s1.r = BitVec.ofNat 16 r ∧ countOf s.cfg t r ≠ 0 := by
  obtain ⟨r, row, hrow, hcon, -, rfl⟩ := pop_ok h
  refine ⟨rfl, r, lt_rowCount_of_getElem? hrow, rfl, countOf_ne_zero_iff.mpr ⟨row, hrow, ?_⟩⟩
  have := (rowContains_iff row _).mp hcon
  omega

/-- A level's table yields one of the three symbols (R19). -/
theorem pop_symbol {t : Nat} (ht : t ≤ 3) {s s1 : State} (h : pop t s = .ok s1) : s1.r = 0 ∨ s1.r = 1 ∨ s1.r = 2 := by
  obtain ⟨-, r, hr, hr1, -⟩ := pop_row h
  rw [rowCount, if_pos ht] at hr
  rw [hr1]
  interval_cases r <;> decide

theorem exists_pop {t : Nat} {s : State} (hwf : tableWellFormed (tableRows s.cfg t)) : ∃ s1, pop t s = .ok s1 := by
  cases h : pop t s with
  | ok s1 => exact ⟨s1, rfl⟩
  | error c =>
    obtain ⟨row, hmem, hcon⟩ := exists_rowContains_of_tableWellFormed hwf (Nat.mod_lt s.v (by decide : 256 > 0))
    simp [(pop_error.mp h).2 row hmem] at hcon

/-- With V unbounded a row with a count can be pushed (R143). -/
theorem exists_push {t r : Nat} {s : State} (hcap : s.cfg.vcap = none) (hcount : countOf s.cfg t r ≠ 0) :
    ∃ s1, push t r s = .ok s1 := by
  obtain ⟨row, hrow, hne⟩ := countOf_ne_zero_iff.mp hcount
  refine ⟨{ s with v := pushedV row s.v }, ?_⟩
  rw [push_of_row hrow, if_neg hne, writeV_ok]
  exact ⟨by simp [fitsV, hcap], rfl⟩

theorem push_of_countOf_zero {t r : Nat} {s : State} (hr : r < rowCount t) (hcount : countOf s.cfg t r = 0) :
    push t r s = .error .divideByZero := by
  have hlt : r < (tableRows s.cfg t).length := by rwa [length_tableRows]
  have hrow := List.getElem?_eq_getElem hlt
  rw [countOf, hrow] at hcount
  rw [push_of_row hrow]
  exact if_pos hcount

/-- A pop of a well-formed table takes back what was pushed there last, whatever R and the bitmap hold by then (R145). -/
theorem pop_of_push {t n : Nat} {s s1 : State} (hwf : tableWellFormed (tableRows s.cfg t)) (h : push t n s = .ok s1)
    (r : BitVec 16) (b : Bitmap) :
    pop t { s1 with r := r, bitmap := b } = .ok { s with r := BitVec.ofNat 16 n, bitmap := b } := by
  obtain ⟨row, hrow, hcount, -, rfl⟩ := push_ok h
  have hrange : row.base.val + row.count.val ≤ 256 :=
    hwf.1 row (List.mem_of_getElem? hrow) (Nat.one_le_iff_ne_zero.mpr hcount)
  have hcon := rowContains_pushedV hcount hrange s.v
  have hfirst := first_of_tableWellFormed hwf (Nat.mod_lt _ (by decide)) hrow hcon
  have hpop := pop_of_first (s := { s with v := pushedV row s.v, r := r, bitmap := b }) hrow hcon hfirst
  rw [poppedV_pushedV hcount hrange] at hpop
  exact hpop

theorem exec_push_of_wellFormed {t r : Byte} (hwf : (Instr.push t r).wellFormed = true) (s : State) :
    exec (.push t r) s = .next (settle (encode (.push t r)) (push t.toNat r.toNat) s) :=
  congrArg Host.Outcome.next (checked_of_wellFormed hwf)

theorem exec_push_of_ok {t r : Byte} (hwf : (Instr.push t r).wellFormed = true) {s s1 : State}
    (h : push t.toNat r.toNat s = .ok s1) : exec (.push t r) s = .next s1 := by
  rw [exec_push_of_wellFormed hwf, settle_of_ok h]

theorem does_push {t r : Byte} (hwf : (Instr.push t r).wellFormed = true) : Does [.push t r] (push t.toNat r.toNat) :=
  does_of_exec hwf Instr.noConfusion Instr.noConfusion
    (fun h => ⟨exec_push_of_ok hwf h, by rw [push_frame h]⟩)
    fun h => ⟨_, by rw [exec_push_of_wellFormed hwf, settle_of_error h], rfl, rfl⟩

/-! ### Regions, their quadrants and their blocks (R190, R191)

A region is given by its height k above the 2×2 blocks, as the procedures of the engine take it: its size is `2^(k+1)`. -/

/-- The places of the region of height k at (x, y). -/
def region (k x y : Nat) : Set (Nat × Nat) :=
  { p | x ≤ p.1 ∧ p.1 < x + 2 ^ (k + 1) ∧ y ≤ p.2 ∧ p.2 < y + 2 ^ (k + 1) }

/-- The region lies inside the grid. -/
structure InGrid (k x y : Nat) : Prop where
  x : x + 2 ^ (k + 1) ≤ 48
  y : y + 2 ^ (k + 1) ≤ 48

/-- `P` holds at the corners of the four quadrants of size h of a region at (x, y). -/
structure OnQuadrants (P : Nat → Nat → Prop) (h x y : Nat) : Prop where
  topLeft : P x y
  topRight : P (x + h) y
  bottomLeft : P x (y + h)
  bottomRight : P (x + h) (y + h)

/-- `P` holds at the corner of every 2×2 block of the region of height k at (x, y). -/
def OnBlocks (P : Nat → Nat → Prop) (k x y : Nat) : Prop := ∀ i < 2 ^ k, ∀ j < 2 ^ k, P (x + 2 * i) (y + 2 * j)

section Regions

variable {P Q : Nat → Nat → Prop} {k h x y i j : Nat}

theorem mem_region : (i, j) ∈ region k x y ↔ x ≤ i ∧ i < x + 2 ^ (k + 1) ∧ y ≤ j ∧ j < y + 2 ^ (k + 1) := Iff.rfl

/-- A region is its four quadrants (R191). -/
theorem region_succ (k x y : Nat) : region (k + 1) x y = region k x y ∪ (region k (x + 2 ^ (k + 1)) y ∪
    (region k x (y + 2 ^ (k + 1)) ∪ region k (x + 2 ^ (k + 1)) (y + 2 ^ (k + 1)))) := by
  ext ⟨i, j⟩
  simp only [Set.mem_union, mem_region, pow_succ 2 (k + 1)]
  omega

theorem InGrid.quadrants (hgrid : InGrid (k + 1) x y) : OnQuadrants (InGrid k) (2 ^ (k + 1)) x y := by
  obtain ⟨hx, hy⟩ := hgrid
  rw [pow_succ] at hx hy
  constructor <;> constructor <;> omega

theorem OnQuadrants.imp (hP : OnQuadrants P h x y) (hPQ : ∀ {x y}, P x y → Q x y) : OnQuadrants Q h x y :=
  ⟨hPQ hP.topLeft, hPQ hP.topRight, hPQ hP.bottomLeft, hPQ hP.bottomRight⟩

theorem OnQuadrants.and (hP : OnQuadrants P h x y) (hQ : OnQuadrants Q h x y) :
    OnQuadrants (fun x y => P x y ∧ Q x y) h x y :=
  ⟨⟨hP.topLeft, hQ.topLeft⟩, ⟨hP.topRight, hQ.topRight⟩, ⟨hP.bottomLeft, hQ.bottomLeft⟩,
    ⟨hP.bottomRight, hQ.bottomRight⟩⟩

theorem onQuadrants_of_forall (hP : ∀ x y, P x y) : OnQuadrants P h x y := ⟨hP _ _, hP _ _, hP _ _, hP _ _⟩

/-- Each quadrant lies in its region. -/
theorem quadrants_subset_region (k x y : Nat) :
    OnQuadrants (fun x' y' => region k x' y' ⊆ region (k + 1) x y) (2 ^ (k + 1)) x y := by
  rw [region_succ]
  exact ⟨fun _ hp => .inl hp, fun _ hp => .inr (.inl hp), fun _ hp => .inr (.inr (.inl hp)),
    fun _ hp => .inr (.inr (.inr hp))⟩

theorem onBlocks_zero : OnBlocks P 0 x y ↔ P x y := by
  simp [OnBlocks]

/-- The steps of width 2 from z on, split in the middle. -/
theorem forall_lt_double {P : Nat → Prop} {n z : Nat} :
    (∀ i < 2 * n, P (z + 2 * i)) ↔ (∀ i < n, P (z + 2 * i)) ∧ ∀ i < n, P (z + 2 * n + 2 * i) := by
  refine ⟨fun hP => ⟨fun i hi => hP i (by omega), fun i hi => ?_⟩, fun ⟨hlow, hhigh⟩ i hi => ?_⟩
  · rw [Nat.add_assoc, ← Nat.mul_add]
    exact hP (n + i) (by omega)
  · by_cases hlt : i < n
    · exact hlow i hlt
    · obtain ⟨m, rfl⟩ := Nat.exists_eq_add_of_le (Nat.le_of_not_lt hlt)
      rw [Nat.mul_add, ← Nat.add_assoc]
      exact hhigh m (by omega)

/-- The blocks of a region are the blocks of its quadrants. -/
theorem onBlocks_succ : OnBlocks P (k + 1) x y ↔ OnQuadrants (OnBlocks P k) (2 ^ (k + 1)) x y := by
  have hcolumns z := forall_lt_double (P := P z) (n := 2 ^ k) (z := y)
  have hrows := forall_lt_double (P := fun z => ∀ j < 2 * 2 ^ k, P z (y + 2 * j)) (n := 2 ^ k) (z := x)
  rw [OnBlocks, pow_succ', hrows]
  simp only [hcolumns, imp_and, forall_and]
  exact ⟨fun ⟨⟨htl, hbl⟩, htr, hbr⟩ => ⟨htl, htr, hbl, hbr⟩, fun ⟨htl, htr, hbl, hbr⟩ => ⟨⟨htl, hbl⟩, htr, hbr⟩⟩

end Regions

/-! ### The operands of a region command (R63, R190) -/

section Operands

variable {x y : Byte} {l : BitVec 2}

theorem regionHeight_last : regionHeight 3 = 0 := rfl

theorem regionHeight_next (hl : l ≠ 3) : regionHeight l = regionHeight (l + 1) + 1 := by
  revert l
  decide

theorem two_pow_regionHeight (l : BitVec 2) : 8 / 2 ^ l.toNat = 2 ^ regionHeight l := by
  revert l
  decide

/-- The size of a region (R190). -/
theorem two_pow_regionHeight_succ (l : BitVec 2) : 16 / 2 ^ l.toNat = 2 ^ (regionHeight l + 1) := by
  revert l
  decide

/-- The selector of the table of a region's level is the level (R140, R194). -/
theorem level_eq (l : BitVec 2) : (l.setWidth 8).toNat = 3 - regionHeight l := by
  revert l
  decide

theorem level_le (l : BitVec 2) : (l.setWidth 8).toNat ≤ 3 := by
  rw [level_eq]
  omega

theorem toNat_level (l : BitVec 2) : l.toNat = 3 - regionHeight l := by
  revert l
  decide

/-- The size of a quadrant as an operand byte. -/
def quadrantSize (l : BitVec 2) : Byte := BitVec.ofNat 8 (8 / 2 ^ l.toNat)

theorem toNat_quadrantSize (l : BitVec 2) : (quadrantSize l).toNat = 2 ^ regionHeight l := by
  revert l
  decide

theorem inGrid_of_regionOk (hok : regionOk x y l = true) : InGrid (regionHeight l) x.toNat y.toNat := by
  obtain ⟨-, -, hx, hy⟩ := (regionOk_iff x y l).mp hok
  rw [two_pow_regionHeight_succ] at hx hy
  exact ⟨hx, hy⟩

theorem toNat_add_quadrantSize {z : Byte} (hz : z.toNat + 16 / 2 ^ l.toNat ≤ 48) :
    (z + quadrantSize l).toNat = z.toNat + 2 ^ regionHeight l := by
  rw [two_pow_regionHeight_succ, pow_succ] at hz
  rw [BitVec.toNat_add, toNat_quadrantSize, Nat.mod_eq_of_lt (by omega)]

/-- The quadrants of a region that is not a 2×2 block are regions of the next level. -/
theorem regionOk_quadrants (hl : l ≠ 3) (hok : regionOk x y l = true) :
    regionOk x y (l + 1) = true ∧ regionOk (x + quadrantSize l) y (l + 1) = true ∧
      regionOk x (y + quadrantSize l) (l + 1) = true ∧ regionOk (x + quadrantSize l) (y + quadrantSize l) (l + 1) = true := by
  obtain ⟨hxa, hya, hx, hy⟩ := (regionOk_iff x y l).mp hok
  have hnext : 16 / 2 ^ (l + 1).toNat = 2 ^ regionHeight l := by rw [two_pow_regionHeight_succ, regionHeight_next hl]
  simp only [regionOk_iff, toNat_add_quadrantSize hx, toNat_add_quadrantSize hy, hnext]
  rw [two_pow_regionHeight_succ, pow_succ] at hxa hya hx hy
  have halved {z : Nat} (hz : z % (2 ^ regionHeight l * 2) = 0) : z % 2 ^ regionHeight l = 0 :=
    Nat.mod_eq_zero_of_dvd (dvd_trans ⟨2, rfl⟩ (Nat.dvd_of_mod_eq_zero hz))
  simp only [Nat.add_mod_right, halved hxa, halved hya, true_and]
  omega

end Operands

/-! ### The four quadrants, one after another (R191, R201) -/

/-- `f` at the quadrants TL, TR, BL, BR of size h. -/
def inOrder (f : Nat → Nat → Proc) (h x y : Nat) : Proc :=
  andThen (f x y) (andThen (f (x + h) y) (andThen (f x (y + h)) (f (x + h) (y + h))))

/-- `f` at the quadrants BR, BL, TR, TL of size h. -/
def inReverse (f : Nat → Nat → Proc) (h x y : Nat) : Proc :=
  andThen (f (x + h) (y + h)) (andThen (f x (y + h)) (andThen (f (x + h) y) (f x y)))

section DoesQuadrants

variable {cmd : Byte → Byte → BitVec 2 → Instr} {proc : Nat → Nat → Nat → Proc}
  (hcmd : ∀ {x y l}, regionOk x y l = true → Does [cmd x y l] (proc (regionHeight l) x.toNat y.toNat))
  {x y : Byte} {l : BitVec 2} (hl : l ≠ 3) (hok : regionOk x y l = true)

include hcmd hl hok

/-- A region command on each quadrant of a region does what its procedure does there. -/
theorem does_quadrants :
    Does [cmd x y (l + 1)] (proc (regionHeight (l + 1)) x.toNat y.toNat) ∧
    Does [cmd (x + quadrantSize l) y (l + 1)]
      (proc (regionHeight (l + 1)) (x.toNat + 2 ^ regionHeight l) y.toNat) ∧
    Does [cmd x (y + quadrantSize l) (l + 1)]
      (proc (regionHeight (l + 1)) x.toNat (y.toNat + 2 ^ regionHeight l)) ∧
    Does [cmd (x + quadrantSize l) (y + quadrantSize l) (l + 1)]
      (proc (regionHeight (l + 1)) (x.toNat + 2 ^ regionHeight l) (y.toNat + 2 ^ regionHeight l)) := by
  obtain ⟨-, -, hx, hy⟩ := (regionOk_iff x y l).mp hok
  obtain ⟨htl, htr, hbl, hbr⟩ := regionOk_quadrants hl hok
  rw [← toNat_add_quadrantSize hx, ← toNat_add_quadrantSize hy]
  exact ⟨hcmd htl, hcmd htr, hcmd hbl, hcmd hbr⟩

theorem does_inOrder :
    Does [cmd x y (l + 1), cmd (x + quadrantSize l) y (l + 1), cmd x (y + quadrantSize l) (l + 1),
      cmd (x + quadrantSize l) (y + quadrantSize l) (l + 1)]
      (inOrder (proc (regionHeight (l + 1))) (2 ^ regionHeight l) x.toNat y.toNat) := by
  obtain ⟨htl, htr, hbl, hbr⟩ := does_quadrants hcmd hl hok
  exact htl.append (htr.append (hbl.append hbr))

theorem does_inReverse :
    Does [cmd (x + quadrantSize l) (y + quadrantSize l) (l + 1), cmd x (y + quadrantSize l) (l + 1),
      cmd (x + quadrantSize l) y (l + 1), cmd x y (l + 1)]
      (inReverse (proc (regionHeight (l + 1))) (2 ^ regionHeight l) x.toNat y.toNat) := by
  obtain ⟨htl, htr, hbl, hbr⟩ := does_quadrants hcmd hl hok
  exact hbr.append (hbl.append (htr.append htl))

end DoesQuadrants

/-! ### What a sequence of procedures keeps -/

/-- From every state in `I` the procedure completes, in a state in `I`. -/
def CompletesWithin (I : State → Prop) (p : Proc) : Prop := ∀ s, I s → ∃ t, p s = .ok t ∧ I t

/-- From every state in `I` the procedure completes in `I` if `C` holds, and raises `c` if not. -/
def DecidedBy (I : State → Prop) (C : Prop) (c : FaultCause) (p : Proc) : Prop :=
  ∀ s, I s → (C → ∃ t, p s = .ok t ∧ I t) ∧ (¬ C → p s = .error c)

/-- When the procedure completes, it has written no pixel outside `A`. -/
def WritesOnly (A : Set (Nat × Nat)) (p : Proc) : Prop :=
  ∀ s t, p s = .ok t → ∀ i j, (i, j) ∉ A → pixelAt t.bitmap i j = pixelAt s.bitmap i j

section Sequences

variable {I : State → Prop} {A B : Set (Nat × Nat)} {C D : Prop} {c : FaultCause} {p q : Proc}
  {f : Nat → Nat → Proc} {h x y : Nat}

theorem CompletesWithin.andThen (hp : CompletesWithin I p) (hq : CompletesWithin I q) :
    CompletesWithin I (andThen p q) := by
  intro s hs
  obtain ⟨u, hu, hIu⟩ := hp s hs
  rw [andThen_of_ok hu]
  exact hq u hIu

theorem CompletesWithin.inOrder (hf : OnQuadrants (fun x y => CompletesWithin I (f x y)) h x y) :
    CompletesWithin I (inOrder f h x y) :=
  hf.topLeft.andThen (hf.topRight.andThen (hf.bottomLeft.andThen hf.bottomRight))

theorem CompletesWithin.inReverse (hf : OnQuadrants (fun x y => CompletesWithin I (f x y)) h x y) :
    CompletesWithin I (inReverse f h x y) :=
  hf.bottomRight.andThen (hf.bottomLeft.andThen (hf.topRight.andThen hf.topLeft))

theorem DecidedBy.andThen (hp : DecidedBy I C c p) (hq : DecidedBy I D c q) : DecidedBy I (D ∧ C) c (andThen p q) := by
  intro s hs
  by_cases hC : C
  · obtain ⟨u, hu, hIu⟩ := (hp s hs).1 hC
    rw [andThen_of_ok hu]
    exact ⟨fun h => (hq u hIu).1 h.1, fun h => (hq u hIu).2 fun hD => h ⟨hD, hC⟩⟩
  · exact ⟨fun h => absurd h.2 hC, fun _ => andThen_of_error ((hp s hs).2 hC)⟩

theorem DecidedBy.of_iff (hp : DecidedBy I C c p) (hCD : C ↔ D) : DecidedBy I D c p := by
  rwa [DecidedBy, ← hCD]

theorem DecidedBy.inReverse {C : Nat → Nat → Prop} (hf : ∀ x y, DecidedBy I (C x y) c (f x y)) :
    DecidedBy I (OnQuadrants C h x y) c (inReverse f h x y) :=
  ((hf _ _).andThen ((hf _ _).andThen ((hf _ _).andThen (hf _ _)))).of_iff
    ⟨fun ⟨⟨⟨htl, htr⟩, hbl⟩, hbr⟩ => ⟨htl, htr, hbl, hbr⟩, fun ⟨htl, htr, hbl, hbr⟩ => ⟨⟨⟨htl, htr⟩, hbl⟩, hbr⟩⟩

theorem WritesOnly.andThen (hp : WritesOnly A p) (hq : WritesOnly A q) : WritesOnly A (andThen p q) := by
  intro s t h i j hij
  obtain ⟨u, hu, ht⟩ := andThen_ok.mp h
  rw [hq u t ht i j hij, hp s u hu i j hij]

theorem WritesOnly.inOrder (hf : OnQuadrants (fun x y => WritesOnly A (f x y)) h x y) : WritesOnly A (inOrder f h x y) :=
  hf.topLeft.andThen (hf.topRight.andThen (hf.bottomLeft.andThen hf.bottomRight))

theorem WritesOnly.mono (hp : WritesOnly A p) (hAB : A ⊆ B) : WritesOnly B p :=
  fun s t h i j hij => hp s t h i j fun hA => hij (hAB hA)

end Sequences

/-! ### 2×2 blocks (R192) -/

section Blocks

variable {x y : Nat}

theorem pixelAt_writeBlock (b : Bitmap) (hgrid : InGrid 0 x y) (p i j : Nat) : pixelAt (writeBlock b x y p) i j =
    if i = x ∧ j = y then p.testBit 0
    else if i = x + 1 ∧ j = y then p.testBit 1
    else if i = x ∧ j = y + 1 then p.testBit 2
    else if i = x + 1 ∧ j = y + 1 then p.testBit 3
    else pixelAt b i j := by
  obtain ⟨hx, hy⟩ := hgrid
  rw [writeBlock, pixelAt_setPixelAt _ (by omega) (by omega), pixelAt_setPixelAt _ (by omega) (by omega),
    pixelAt_setPixelAt _ (by omega) (by omega), pixelAt_setPixelAt _ (by omega) (by omega)]
  grind

theorem blockPattern_lt (b : Bitmap) (x y : Nat) : blockPattern b x y < 16 := by
  unfold blockPattern
  have h := fun i j => Bool.toNat_le (pixelAt b i j)
  have h1 := h x y
  have h2 := h (x + 1) y
  have h3 := h x (y + 1)
  have h4 := h (x + 1) (y + 1)
  omega

/-- The four bits of a block's pattern are its four pixels. -/
theorem testBit_blockPattern (b : Bitmap) (x y : Nat) :
    (blockPattern b x y).testBit 0 = pixelAt b x y ∧ (blockPattern b x y).testBit 1 = pixelAt b (x + 1) y ∧
    (blockPattern b x y).testBit 2 = pixelAt b x (y + 1) ∧ (blockPattern b x y).testBit 3 = pixelAt b (x + 1) (y + 1) := by
  unfold blockPattern
  generalize pixelAt b x y = p0, pixelAt b (x + 1) y = p1, pixelAt b x (y + 1) = p2, pixelAt b (x + 1) (y + 1) = p3
  revert p0 p1 p2 p3
  decide

theorem blockPattern_eq_zero_iff (b : Bitmap) (x y : Nat) : blockPattern b x y = 0 ↔
    pixelAt b x y = false ∧ pixelAt b (x + 1) y = false ∧ pixelAt b x (y + 1) = false ∧
      pixelAt b (x + 1) (y + 1) = false := by
  unfold blockPattern
  generalize pixelAt b x y = p0, pixelAt b (x + 1) y = p1, pixelAt b x (y + 1) = p2, pixelAt b (x + 1) (y + 1) = p3
  revert p0 p1 p2 p3
  decide

theorem mem_region_zero {i j : Nat} : (i, j) ∈ region 0 x y ↔ (i = x ∨ i = x + 1) ∧ (j = y ∨ j = y + 1) := by
  rw [mem_region]
  omega

theorem pixelAt_writeBlock_of_not_mem (b : Bitmap) (hgrid : InGrid 0 x y) (p : Nat) {i j : Nat}
    (hij : (i, j) ∉ region 0 x y) : pixelAt (writeBlock b x y p) i j = pixelAt b i j := by
  rw [mem_region_zero] at hij
  rw [pixelAt_writeBlock b hgrid, if_neg (by omega), if_neg (by omega), if_neg (by omega), if_neg (by omega)]

end Blocks

/-! ### `decode_leaf` and `decode_region` (R193, R194) -/

/-- The split case of `decode_region`: the quadrants in order, or MODEL_FAULT in a 2×2 region. -/
def decodeQuadrants : Nat → Nat → Nat → Proc
  | 0, _, _ => fun _ => .error .modelFault
  | k + 1, x, y => inOrder (decodeRegion k) (2 ^ (k + 1)) x y

section Decode

variable {k x y : Nat} {s s1 : State} {c : FaultCause}

theorem decodeLeaf_zero (x y : Nat) : decodeLeaf 0 x y =
    andThen (pop leafTable) fun s => .ok { s with bitmap := writeBlock s.bitmap x y s.r.toNat } := rfl

theorem decodeLeaf_succ (k x y : Nat) : decodeLeaf (k + 1) x y = inOrder (decodeLeaf k) (2 ^ (k + 1)) x y := rfl

theorem decodeRegion_eq (k x y : Nat) : decodeRegion k x y = andThen (pop (3 - k)) fun s =>
    if s.r.toNat = symEmpty then .ok s
    else if s.r.toNat = symFill then decodeLeaf k x y s
    else decodeQuadrants k x y s := by
  cases k <;> rfl

theorem decodeRegion_of_pop_error (h : pop (3 - k) s = .error c) : decodeRegion k x y s = .error c := by
  rw [decodeRegion_eq, andThen_of_error h]

theorem decodeRegion_of_empty (h : pop (3 - k) s = .ok s1) (hr : s1.r = 0) : decodeRegion k x y s = .ok s1 := by
  rw [decodeRegion_eq, andThen_of_ok h, hr]
  rfl

theorem decodeRegion_of_fill (h : pop (3 - k) s = .ok s1) (hr : s1.r = 1) :
    decodeRegion k x y s = decodeLeaf k x y s1 := by
  rw [decodeRegion_eq, andThen_of_ok h, hr]
  rfl

theorem decodeRegion_of_split (h : pop (3 - k) s = .ok s1) (hr : s1.r = 2) :
    decodeRegion k x y s = decodeQuadrants k x y s1 := by
  rw [decodeRegion_eq, andThen_of_ok h, hr]
  rfl

/-- Only the level-3 table can yield a split of a 2×2 region (R265). -/
theorem height_ne_zero_of_split (hdeep : noDeepSplit s.cfg) (h : pop (3 - k) s = .ok s1) (hr : s1.r = 2) : k ≠ 0 := by
  rintro rfl
  obtain ⟨-, r, hlt, hr1, hcount⟩ := pop_row h
  obtain rfl : r = symSplit := by
    have hr2 := congrArg BitVec.toNat (hr1.symm.trans hr)
    rwa [BitVec.toNat_ofNat, Nat.mod_eq_of_lt (lt_of_lt_of_le hlt ((rowCount_le _).trans (by decide)))] at hr2
  exact hcount hdeep

/-- The machine has the configuration `cfg`, which no procedure of the engine writes (R67). -/
def HasConfig (cfg : Config) (s : State) : Prop := s.cfg = cfg

theorem pop_completesWithin {cfg : Config} {t : Nat} (hwf : tableWellFormed (tableRows cfg t)) :
    CompletesWithin (HasConfig cfg) (pop t) := by
  rintro s rfl
  obtain ⟨s1, h⟩ := exists_pop hwf
  exact ⟨s1, h, by rw [(pop_row h).1]; rfl⟩

theorem decodeLeaf_completesWithin {cfg : Config} (hwf : tableWellFormed (tableRows cfg leafTable)) (k x y : Nat) :
    CompletesWithin (HasConfig cfg) (decodeLeaf k x y) := by
  induction k generalizing x y with
  | zero => exact (pop_completesWithin hwf).andThen fun s hs => ⟨_, rfl, hs⟩
  | succ k ih => exact .inOrder (onQuadrants_of_forall ih)

theorem decodeRegion_completesWithin_of_quadrants {cfg : Config} (hrom : romWellFormed cfg) (hdeep : noDeepSplit cfg)
    (hquadrants : k ≠ 0 → CompletesWithin (HasConfig cfg) (decodeQuadrants k x y)) :
    CompletesWithin (HasConfig cfg) (decodeRegion k x y) := by
  intro s hs
  obtain ⟨s1, hpop, hs1⟩ := pop_completesWithin (hrom (3 - k) (by omega)) s hs
  obtain hr | hr | hr := pop_symbol (by omega) hpop
  · exact ⟨s1, decodeRegion_of_empty hpop hr, hs1⟩
  · rw [decodeRegion_of_fill hpop hr]
    exact decodeLeaf_completesWithin (hrom leafTable (by decide)) k x y s1 hs1
  · rw [decodeRegion_of_split hpop hr]
    exact hquadrants (height_ne_zero_of_split (hs ▸ hdeep) hpop hr) s1 hs1

theorem decodeRegion_completesWithin {cfg : Config} (hrom : romWellFormed cfg) (hdeep : noDeepSplit cfg) (k x y : Nat) :
    CompletesWithin (HasConfig cfg) (decodeRegion k x y) := by
  induction k generalizing x y with
  | zero => exact decodeRegion_completesWithin_of_quadrants hrom hdeep fun hk => absurd rfl hk
  | succ k ih => exact decodeRegion_completesWithin_of_quadrants hrom hdeep fun _ => .inOrder (onQuadrants_of_forall ih)

/-- `decode_leaf` writes pixels of its region only (R193). -/
theorem decodeLeaf_writesOnly (hgrid : InGrid k x y) : WritesOnly (region k x y) (decodeLeaf k x y) := by
  induction k generalizing x y with
  | zero =>
    intro s t h i j hij
    obtain ⟨s1, hpop, ht⟩ := andThen_ok.mp h
    cases ht
    rw [(pop_row hpop).1]
    exact pixelAt_writeBlock_of_not_mem s.bitmap hgrid _ hij
  | succ k ih =>
    exact .inOrder ((hgrid.quadrants.and (quadrants_subset_region k x y)).imp fun ⟨hquad, hsub⟩ => (ih hquad).mono hsub)

theorem decodeRegion_writesOnly_of_quadrants (hgrid : InGrid k x y)
    (hquadrants : WritesOnly (region k x y) (decodeQuadrants k x y)) : WritesOnly (region k x y) (decodeRegion k x y) := by
  intro s t h
  cases hpop : pop (3 - k) s with
  | error c => cases (decodeRegion_of_pop_error hpop).symm.trans h
  | ok s1 =>
    have hbitmap : s1.bitmap = s.bitmap := by rw [(pop_row hpop).1]
    rw [← hbitmap]
    obtain hr | hr | hr := pop_symbol (by omega) hpop
    · cases (decodeRegion_of_empty hpop hr).symm.trans h
      exact fun _ _ _ => rfl
    · exact decodeLeaf_writesOnly hgrid s1 t ((decodeRegion_of_fill hpop hr).symm.trans h)
    · exact hquadrants s1 t ((decodeRegion_of_split hpop hr).symm.trans h)

/-- `decode_region` writes pixels of its region only (R195). -/
theorem decodeRegion_writesOnly (hgrid : InGrid k x y) : WritesOnly (region k x y) (decodeRegion k x y) := by
  induction k generalizing x y with
  | zero =>
    refine decodeRegion_writesOnly_of_quadrants hgrid fun s t h => ?_
    cases h
  | succ k ih =>
    exact decodeRegion_writesOnly_of_quadrants hgrid <| .inOrder <|
      (hgrid.quadrants.and (quadrants_subset_region k x y)).imp fun ⟨hquad, hsub⟩ => (ih hquad).mono hsub

/-! DLEAF and DRG run them. -/

theorem runsInside_dleaf {x y : Byte} {l : BitVec 2} (hok : regionOk x y l = true) :
    RunsInside (.dleaf x y l) (decodeLeaf (regionHeight l) x.toNat y.toNat) :=
  runsInside_of_checked ((wellFormed_of_region (.inl rfl)).trans hok) fun _ => rfl

theorem runsInside_drg {x y : Byte} {l : BitVec 2} (hok : regionOk x y l = true) :
    RunsInside (.drg x y l) (decodeRegion (regionHeight l) x.toNat y.toNat) :=
  runsInside_of_checked ((wellFormed_of_region (.inr (.inl rfl))).trans hok) fun _ => rfl

theorem does_dleaf {x y : Byte} {l : BitVec 2} (hok : regionOk x y l = true) :
    Does [.dleaf x y l] (decodeLeaf (regionHeight l) x.toNat y.toNat) :=
  (runsInside_dleaf hok).does ((wellFormed_of_region (.inl rfl)).trans hok) Instr.noConfusion Instr.noConfusion
    fun h => by rw [decodeLeaf_frame h]

theorem does_drg {x y : Byte} {l : BitVec 2} (hok : regionOk x y l = true) :
    Does [.drg x y l] (decodeRegion (regionHeight l) x.toNat y.toNat) :=
  (runsInside_drg hok).does ((wellFormed_of_region (.inr (.inl rfl))).trans hok) Instr.noConfusion Instr.noConfusion
    fun h => by rw [decodeRegion_frame h]

end Decode

end Sys2Proof.Machine

namespace Sys2Proof.Proofs

open Sys2Proof.Machine

/-- Settles O46: on a 2×2 block DLEAF is one pop and the pixels of its row, on a larger region the procedure on the quadrants. -/
theorem dleafRunsQuadrantsInOrder : Obligations.DleafRunsQuadrantsInOrder := by
  intro x y l s herr hwf h quadrants
  have hok : regionOk x y l = true := (wellFormed_of_region (.inl rfl)).symm.trans hwf
  have hruns := runsInside_dleaf hok
  have hgrid := inGrid_of_regionOk hok
  have hsplit (hl : l ≠ 3) : decodeLeaf (regionHeight l) x.toNat y.toNat =
      inOrder (decodeLeaf (regionHeight (l + 1))) (2 ^ regionHeight l) x.toNat y.toNat := by
    rw [regionHeight_next hl, decodeLeaf_succ]
  refine ⟨fun htable => ?_, fun t hexec herrt => ?_, fun hl s1 hpop herr1 => ?_, fun hl hnone => ?_, fun hl => ?_⟩
  · obtain ⟨t, ht, -⟩ := decodeLeaf_completesWithin htable (regionHeight l) x.toNat y.toNat s rfl
    refine ⟨t, hruns.ok ht, by rw [decodeLeaf_frame ht]; exact herr, fun hl => ?_, fun hl => ?_⟩
    · obtain ⟨s1, hpop⟩ := exists_pop htable
      exact ⟨s1, exec_pop_of_ok (by decide) hpop, by rw [(pop_row hpop).1]; exact herr⟩
    · rw [hsplit hl] at ht
      exact ((does_inOrder does_dleaf hl hok).ok herr ht).1
  · have ht := hruns.ok_of_exec hexec herrt
    rw [two_pow_regionHeight_succ]
    exact ⟨decodeLeaf_frame ht, decodeLeaf_writesOnly hgrid s t ht⟩
  · subst hl
    have hpop1 : pop leafTable s = .ok s1 := pop_of_exec_pop (by decide) hpop herr1
    refine ⟨writeBlock s.bitmap x.toNat y.toNat s1.r.toNat, hruns.ok ?_, pixelAt_writeBlock s.bitmap hgrid s1.r.toNat⟩
    rw [regionHeight_last, decodeLeaf_zero, andThen_of_ok hpop1, (pop_row hpop1).1]
  · subst hl
    refine hruns.error ?_
    rw [regionHeight_last, decodeLeaf_zero]
    exact andThen_of_error (pop_error.mpr ⟨rfl, fun row hmem => (rowContains_eq_false_iff row _).mpr (hnone row hmem)⟩)
  · exact hruns.actsAs (does_inOrder does_dleaf hl hok) herr (congrFun (hsplit hl) s)

/-- Settles O47: the row number the pop leaves in R picks the case of the procedure. -/
theorem drgFollowsItsSymbol : Obligations.DrgFollowsItsSymbol := by
  intro x y l s herr hwf h quadrants
  have hok : regionOk x y l = true := (wellFormed_of_region (.inr (.inl rfl))).symm.trans hwf
  have hruns := runsInside_drg hok
  have hgrid := inGrid_of_regionOk hok
  have hlevel := level_eq l
  have hle : (l.setWidth 8).toNat ≤ 4 := (level_le l).trans (by decide)
  have hsplit (hl : l ≠ 3) : decodeQuadrants (regionHeight l) x.toNat y.toNat =
      inOrder (decodeRegion (regionHeight (l + 1))) (2 ^ regionHeight l) x.toNat y.toNat := by
    rw [regionHeight_next hl, decodeQuadrants]
  rw [two_pow_regionHeight_succ, toNat_level]
  refine ⟨fun hrom hdeep => ?_, fun t hexec herrt => ?_, fun hnone => ?_, fun s1 hexec herr1 => ?_⟩
  · obtain ⟨t, ht, -⟩ := decodeRegion_completesWithin hrom hdeep (regionHeight l) x.toNat y.toNat s rfl
    obtain ⟨s1, hpop⟩ := exists_pop (hrom (3 - regionHeight l) (by omega))
    have herr1 : s1.err = false := by rw [(pop_row hpop).1]; exact herr
    have hsymbol := pop_symbol (by omega) hpop
    refine ⟨s1, t, exec_pop_of_ok hle (hlevel ▸ hpop), hruns.ok ht, decodeRegion_frame ht, ?_, fun hr => ?_, fun hr => ?_,
      fun hr => ?_, decodeRegion_writesOnly hgrid s t ht⟩
    · obtain hr | hr | hr := hsymbol <;> rw [hr] <;> decide
    · exact Except.ok.inj (ht.symm.trans (decodeRegion_of_empty hpop hr))
    · exact (runsInside_dleaf hok).ok ((decodeRegion_of_fill hpop hr).symm.trans ht)
    · have hl : l ≠ 3 := fun hl => height_ne_zero_of_split hdeep hpop hr (hl ▸ regionHeight_last)
      rw [decodeRegion_of_split hpop hr, hsplit hl] at ht
      exact ⟨hl, ((does_inOrder does_drg hl hok).ok herr1 ht).1⟩
  · have ht := hruns.ok_of_exec hexec herrt
    exact ⟨decodeRegion_frame ht, decodeRegion_writesOnly hgrid s t ht⟩
  · exact hruns.error (decodeRegion_of_pop_error (pop_error.mpr ⟨rfl, fun row hmem =>
      (rowContains_eq_false_iff row _).mpr (hnone row hmem)⟩))
  · have hpop := pop_of_exec_pop hle hexec herr1
    rw [hlevel] at hpop
    refine ⟨fun hr => hruns.ok (decodeRegion_of_empty hpop hr), fun hr => ?_, fun hr hl => ?_, fun hr hl => ?_⟩
    · exact hruns.actsAs (does_dleaf hok) herr1 (decodeRegion_of_fill hpop hr)
    · subst hl
      exact hruns.error (decodeRegion_of_split hpop hr)
    · refine hruns.actsAs (does_inOrder does_drg hl hok) herr1 ?_
      rw [decodeRegion_of_split hpop hr, hsplit hl]

end Sys2Proof.Proofs

namespace Sys2Proof.Machine

/-! ### `encode_leaf` and `encode_region` (R196, R197, R201, R202) -/

/-- The tables and the bitmap, which no encoding procedure writes. -/
def HasSource (cfg : Config) (b : Bitmap) (s : State) : Prop := s.cfg = cfg ∧ s.bitmap = b

/-- The pattern of the block at (x, y) has a count (R201). -/
def HasLeafCount (cfg : Config) (b : Bitmap) (x y : Nat) : Prop := countOf cfg leafTable (blockPattern b x y) ≠ 0

section Encode

variable {cfg : Config} {b : Bitmap} {k x y n : Nat} {s : State}

theorem encodeLeaf_zero (x y : Nat) (s : State) : encodeLeaf 0 x y s = push leafTable (blockPattern s.bitmap x y) s := rfl

theorem encodeLeaf_succ (k x y : Nat) : encodeLeaf (k + 1) x y = inReverse (encodeLeaf k) (2 ^ (k + 1)) x y := rfl

theorem allWhite_iff : allWhite b x y n = true ↔ ∀ i < n, ∀ j < n, pixelAt b (x + i) (y + j) = false := by
  simp only [allWhite, List.all_eq_true, List.mem_range, Bool.not_eq_true']
  exact ⟨fun h i hi j hj => h j hj i hi, fun h j hj i hi => h i hi j hj⟩

/-- A white region has no black place (R196). -/
theorem allWhite_iff_region : allWhite b x y (2 ^ (k + 1)) = true ↔ ∀ i j, (i, j) ∈ region k x y → pixelAt b i j = false := by
  rw [allWhite_iff]
  refine ⟨fun h i j hij => ?_, fun h i hi j hj => h _ _ (mem_region.mpr (by omega))⟩
  obtain ⟨hxi, hix, hyj, hjy⟩ := mem_region.mp hij
  have := h (i - x) (by omega) (j - y) (by omega)
  rwa [Nat.add_sub_cancel' hxi, Nat.add_sub_cancel' hyj] at this

/-- Every block of a region holds a black pixel (R197). -/
theorem allBlack_iff : allBlack b k x y = true ↔ OnBlocks (fun x y => blockPattern b x y ≠ 0) k x y := by
  induction k generalizing x y with
  | zero => simp [allBlack, onBlocks_zero]
  | succ k ih =>
    simp only [allBlack, Bool.and_eq_true, ih, onBlocks_succ]
    exact ⟨fun ⟨⟨⟨htl, htr⟩, hbl⟩, hbr⟩ => ⟨htl, htr, hbl, hbr⟩, fun ⟨htl, htr, hbl, hbr⟩ => ⟨⟨⟨htl, htr⟩, hbl⟩, hbr⟩⟩

/-- A 2×2 block that is not white is black (R198). -/
theorem allBlack_of_not_white_block (hwhite : allWhite b x y (2 ^ (0 + 1)) = false) : allBlack b 0 x y = true := by
  rw [← Bool.not_eq_true, allWhite_iff_region] at hwhite
  rw [allBlack_iff, onBlocks_zero]
  refine fun hzero => hwhite fun i j hij => ?_
  obtain ⟨h00, h10, h01, h11⟩ := (blockPattern_eq_zero_iff b x y).mp hzero
  obtain ⟨rfl | rfl, rfl | rfl⟩ := mem_region_zero.mp hij <;> assumption

/-- A region that is neither white nor black is larger than a 2×2 block. -/
theorem exists_eq_succ_of_split (hwhite : allWhite b x y (2 ^ (k + 1)) = false) (hblack : allBlack b k x y = false) :
    ∃ m, k = m + 1 := by
  refine Nat.exists_eq_succ_of_ne_zero ?_
  rintro rfl
  exact absurd ((allBlack_of_not_white_block hwhite).symm.trans hblack) (by decide)

theorem encodeRegion_of_white (hwhite : allWhite s.bitmap x y (2 ^ (k + 1)) = true) :
    encodeRegion k x y s = push (3 - k) symEmpty s := by
  cases k <;> exact if_pos hwhite

theorem encodeRegion_of_black (hwhite : allWhite s.bitmap x y (2 ^ (k + 1)) = false)
    (hblack : allBlack s.bitmap k x y = true) :
    encodeRegion k x y s = andThen (encodeLeaf k x y) (push (3 - k) symFill) s := by
  have hwhite' := Bool.eq_false_iff.mp hwhite
  cases k with
  | zero => exact if_neg hwhite'
  | succ k => exact (if_neg hwhite').trans (if_pos hblack)

theorem encodeRegion_of_split (hwhite : allWhite s.bitmap x y (2 ^ (k + 2)) = false)
    (hblack : allBlack s.bitmap (k + 1) x y = false) : encodeRegion (k + 1) x y s =
      andThen (inReverse (encodeRegion k) (2 ^ (k + 1)) x y) (push (3 - (k + 1)) symSplit) s := by
  simp only [inReverse, andThen_assoc]
  exact (if_neg (Bool.eq_false_iff.mp hwhite)).trans (if_neg (Bool.eq_false_iff.mp hblack))

theorem push_completesWithin {t r : Nat} (hcap : cfg.vcap = none) (hcount : countOf cfg t r ≠ 0) :
    CompletesWithin (HasSource cfg b) (push t r) := by
  rintro s ⟨rfl, rfl⟩
  obtain ⟨s1, h⟩ := exists_push hcap hcount
  exact ⟨s1, h, by rw [push_frame h]; exact ⟨rfl, rfl⟩⟩

/-- With V unbounded, whether `encode_leaf` completes is whether every block's pattern has a count (R201). -/
theorem encodeLeaf_decidedBy (hcap : cfg.vcap = none) (k x y : Nat) :
    DecidedBy (HasSource cfg b) (OnBlocks (HasLeafCount cfg b) k x y) .divideByZero (encodeLeaf k x y) := by
  induction k generalizing x y with
  | zero =>
    rintro s ⟨rfl, rfl⟩
    rw [onBlocks_zero, encodeLeaf_zero]
    exact ⟨fun hcount => push_completesWithin hcap hcount s ⟨rfl, rfl⟩,
      fun hcount => push_of_countOf_zero (blockPattern_lt _ _ _) (not_not.mp hcount)⟩
  | succ k ih => exact (DecidedBy.inReverse ih).of_iff onBlocks_succ.symm

theorem hasLeafCount_of_black (hcomplete : encodeComplete cfg) (hblack : allBlack b k x y = true) :
    OnBlocks (HasLeafCount cfg b) k x y :=
  fun i hi j hj => hcomplete.2.2 _ (blockPattern_lt _ _ _) (allBlack_iff.mp hblack i hi j hj)

theorem encodeRegion_completesWithin_of_split (hcomplete : encodeComplete cfg) (hcap : cfg.vcap = none)
    (hsplit : ∀ m, k = m + 1 → CompletesWithin (HasSource cfg b) (inReverse (encodeRegion m) (2 ^ (m + 1)) x y)) :
    CompletesWithin (HasSource cfg b) (encodeRegion k x y) := by
  have ⟨hlevels, hsplits, _⟩ := hcomplete
  obtain ⟨hempty, hfill⟩ := hlevels (3 - k) (by omega)
  rintro s ⟨rfl, rfl⟩
  cases hwhite : allWhite s.bitmap x y (2 ^ (k + 1)) with
  | true =>
    rw [encodeRegion_of_white hwhite]
    exact push_completesWithin hcap hempty s ⟨rfl, rfl⟩
  | false =>
    cases hblack : allBlack s.bitmap k x y with
    | true =>
      have hleaf : CompletesWithin (HasSource s.cfg s.bitmap) (encodeLeaf k x y) :=
        fun u hu => (encodeLeaf_decidedBy hcap k x y u hu).1 (hasLeafCount_of_black hcomplete hblack)
      rw [encodeRegion_of_black hwhite hblack]
      exact hleaf.andThen (push_completesWithin hcap hfill) s ⟨rfl, rfl⟩
    | false =>
      obtain ⟨m, rfl⟩ := exists_eq_succ_of_split hwhite hblack
      rw [encodeRegion_of_split hwhite hblack]
      exact (hsplit m rfl).andThen (push_completesWithin hcap (hsplits (3 - (m + 1)) (by omega))) s ⟨rfl, rfl⟩

/-- On an encode-complete ROM with V unbounded `encode_region` completes (R240). -/
theorem encodeRegion_completesWithin (hcomplete : encodeComplete cfg) (hcap : cfg.vcap = none) (k x y : Nat) :
    CompletesWithin (HasSource cfg b) (encodeRegion k x y) := by
  induction k generalizing x y with
  | zero => exact encodeRegion_completesWithin_of_split hcomplete hcap nofun
  | succ k ih =>
    refine encodeRegion_completesWithin_of_split hcomplete hcap fun m hm => ?_
    obtain rfl := Nat.succ.inj hm
    exact .inReverse (onQuadrants_of_forall ih)

/-! ELEAF and ERG run them. -/

theorem runsInside_eleaf {x y : Byte} {l : BitVec 2} (hok : regionOk x y l = true) :
    RunsInside (.eleaf x y l) (encodeLeaf (regionHeight l) x.toNat y.toNat) :=
  runsInside_of_checked ((wellFormed_of_region (.inr (.inr (.inl rfl)))).trans hok) fun _ => rfl

theorem runsInside_erg {x y : Byte} {l : BitVec 2} (hok : regionOk x y l = true) :
    RunsInside (.erg x y l) (encodeRegion (regionHeight l) x.toNat y.toNat) :=
  runsInside_of_checked ((wellFormed_of_region (.inr (.inr (.inr rfl)))).trans hok) fun _ => rfl

theorem does_eleaf {x y : Byte} {l : BitVec 2} (hok : regionOk x y l = true) :
    Does [.eleaf x y l] (encodeLeaf (regionHeight l) x.toNat y.toNat) :=
  (runsInside_eleaf hok).does ((wellFormed_of_region (.inr (.inr (.inl rfl)))).trans hok) Instr.noConfusion
    Instr.noConfusion fun h => by rw [encodeLeaf_frame h]

theorem does_erg {x y : Byte} {l : BitVec 2} (hok : regionOk x y l = true) :
    Does [.erg x y l] (encodeRegion (regionHeight l) x.toNat y.toNat) :=
  (runsInside_erg hok).does ((wellFormed_of_region (.inr (.inr (.inr rfl)))).trans hok) Instr.noConfusion
    Instr.noConfusion fun h => by rw [encodeRegion_frame h]

/-- A fault inside a command that writes V only leaves only V open (R201, R272). -/
theorem exec_of_faultsInside {i : Instr} {c : FaultCause} (hr : writesR i = false) (hb : writesBitmap i = false)
    (ht : writesText i = false) (h : faultsInside i s c) : ∃ v : Nat, exec i s = .next { s with
      v := v, draws := s.draws + 1, err := true, cause := some c, info := encode i } := by
  obtain ⟨v, r, b, txt, hexec, -, hr', hb', ht'⟩ := h
  rw [hr' hr, hb' hb, ht' ht] at hexec
  exact ⟨v, hexec⟩

end Encode

/-- The leaf table has a row for every pattern. -/
theorem wellFormed_push_pattern (b : Bitmap) (x y : Nat) :
    (Instr.push 4 (BitVec.ofNat 8 (blockPattern b x y))).wellFormed = true := by
  have hlt := blockPattern_lt b x y
  rw [wellFormed_push_iff, BitVec.toNat_ofNat, Nat.mod_eq_of_lt (by omega)]
  exact ⟨by decide, hlt⟩

/-- ELEAF of a 2×2 block is one push (R201). -/
theorem does_push_pattern (b : Bitmap) (x y : Nat) :
    Does [.push 4 (BitVec.ofNat 8 (blockPattern b x y))] (push leafTable (blockPattern b x y)) := by
  have hdoes := does_push (wellFormed_push_pattern b x y)
  rwa [BitVec.toNat_ofNat, Nat.mod_eq_of_lt (lt_trans (blockPattern_lt b x y) (by decide))] at hdoes

/-- Every level table has a row for each of the three symbols (R19). -/
theorem wellFormed_push_symbol (l : BitVec 2) {r : Byte} (hr : r.toNat < 3) :
    (Instr.push (l.setWidth 8) r).wellFormed = true := by
  have hle := level_le l
  exact (wellFormed_push_iff (l.setWidth 8) r).mpr ⟨by omega, by rwa [rowCount, if_pos hle]⟩

theorem does_push_symbol (l : BitVec 2) {r : Byte} (hr : r.toNat < 3) :
    Does [.push (l.setWidth 8) r] (push (3 - regionHeight l) r.toNat) := by
  rw [← level_eq]
  exact does_push (wellFormed_push_symbol l hr)

end Sys2Proof.Machine

namespace Sys2Proof.Proofs

open Sys2Proof.Machine

/-- Settles O48: with V unbounded the counts of the region's patterns decide it (`encodeLeaf_decidedBy`). -/
theorem eleafRunsQuadrantsInReverse : Obligations.EleafRunsQuadrantsInReverse := by
  intro x y l s herr hwf h quadrants
  have hok : regionOk x y l = true := (wellFormed_of_region (.inr (.inr (.inl rfl)))).symm.trans hwf
  have hruns := runsInside_eleaf hok
  have hsplit (hl : l ≠ 3) : encodeLeaf (regionHeight l) x.toNat y.toNat =
      inReverse (encodeLeaf (regionHeight (l + 1))) (2 ^ regionHeight l) x.toNat y.toNat := by
    rw [regionHeight_next hl, encodeLeaf_succ]
  have hblock := does_push_pattern s.bitmap x.toNat y.toNat
  have hquadrants (hl : l ≠ 3) := does_inReverse does_eleaf hl hok
  rw [two_pow_regionHeight]
  refine ⟨fun hcap => ?_, fun hl => ?_, fun hl => ?_⟩
  · obtain ⟨hcompletes, hfaults⟩ :=
      encodeLeaf_decidedBy hcap (regionHeight l) x.toNat y.toNat s (⟨rfl, rfl⟩ : HasSource s.cfg s.bitmap s)
    refine ⟨fun hcounts => ?_, fun ⟨i, hi, j, hj, hzero⟩ => ?_⟩
    · obtain ⟨t, ht, -⟩ := hcompletes hcounts
      refine ⟨t, hruns.ok ht, encodeLeaf_frame ht, fun hl => ?_, fun hl => ?_⟩
      · subst hl
        exact hblock.exec_of_ok (wellFormed_push_pattern _ _ _) herr ht
      · exact ((hquadrants hl).ok herr ((congrFun (hsplit hl) s).symm.trans ht)).1
    · exact exec_of_faultsInside rfl rfl rfl (hruns.error (hfaults fun hcounts => hcounts i hi j hj hzero))
  · subst hl
    exact hruns.actsAs hblock herr rfl
  · exact hruns.actsAs (hquadrants hl) herr (congrFun (hsplit hl) s)

/-- Settles O49: the two tests of the procedure are the two classifications, and each case is a sequence of commands. -/
theorem ergClassifiesItsRegion : Obligations.ErgClassifiesItsRegion := by
  intro x y l s herr hwf h white black split
  have hok : regionOk x y l = true := (wellFormed_of_region (.inr (.inr (.inr rfl)))).symm.trans hwf
  have hruns := runsInside_erg hok
  have hwhite : white ↔ allWhite s.bitmap x.toNat y.toNat (2 ^ (regionHeight l + 1)) = true := by
    rw [allWhite_iff, ← two_pow_regionHeight_succ]
  have hblack : black ↔ allBlack s.bitmap (regionHeight l) x.toNat y.toNat = true := by
    rw [allBlack_iff, OnBlocks, ← two_pow_regionHeight]
  have hempty := does_push_symbol l (r := 0) (by decide)
  have hfill := (does_eleaf hok).append (does_push_symbol l (r := 1) (by decide))
  have hsplit (hnw : ¬ white) (hnb : ¬ black) : l ≠ 3 ∧ ∃ p : Proc, Does split p ∧
      encodeRegion (regionHeight l) x.toNat y.toNat s = p s := by
    rw [hwhite, Bool.not_eq_true] at hnw
    rw [hblack, Bool.not_eq_true] at hnb
    have hl : l ≠ 3 := by
      rintro rfl
      exact nomatch exists_eq_succ_of_split hnw hnb
    refine ⟨hl, _, (does_inReverse does_erg hl hok).append (does_push_symbol l (r := 2) (by decide)), ?_⟩
    rw [regionHeight_next hl] at hnw hnb ⊢
    exact encodeRegion_of_split hnw hnb
  refine ⟨fun hcomplete hcap => ?_, fun hw => ?_, fun hnw hb => ?_, fun hnw hnb => ?_⟩
  · obtain ⟨t, ht, -⟩ := encodeRegion_completesWithin hcomplete hcap (regionHeight l) x.toNat y.toNat s
      (⟨rfl, rfl⟩ : HasSource s.cfg s.bitmap s)
    refine ⟨t, hruns.ok ht, encodeRegion_frame ht, fun hw => ?_, fun hnw hb => ?_, fun hnw hnb => ?_⟩
    · rw [encodeRegion_of_white (hwhite.mp hw)] at ht
      exact hempty.exec_of_ok (wellFormed_push_symbol l (by decide)) herr ht
    · rw [encodeRegion_of_black (Bool.eq_false_iff.mpr (mt hwhite.mpr hnw)) (hblack.mp hb)] at ht
      exact (hfill.ok herr ht).1
    · obtain ⟨hl, p, hp, heq⟩ := hsplit hnw hnb
      exact ⟨hl, (hp.ok herr (heq.symm.trans ht)).1⟩
  · exact hruns.actsAs hempty herr (encodeRegion_of_white (hwhite.mp hw))
  · exact hruns.actsAs hfill herr (encodeRegion_of_black (Bool.eq_false_iff.mpr (mt hwhite.mpr hnw)) (hblack.mp hb))
  · obtain ⟨hl, p, hp, heq⟩ := hsplit hnw hnb
    exact ⟨hl, hruns.actsAs hp herr heq⟩

end Sys2Proof.Proofs

namespace Sys2Proof.Machine

/-! ### Decoding undoes encoding (R204)

The bitmap a region is decoded onto may already show pixels of the encoded one, as it does after the first quadrants: what
matters is that it shows no black pixel which the encoded bitmap lacks. -/

/-- `b'` shows the pixels of `src` in `A` and those of `b` elsewhere. -/
def CopiedFrom (src : Bitmap) (A : Set (Nat × Nat)) (b b' : Bitmap) : Prop :=
  ∀ i j, ((i, j) ∈ A → pixelAt b' i j = pixelAt src i j) ∧ ((i, j) ∉ A → pixelAt b' i j = pixelAt b i j)

/-- In `P` every black pixel of `b` is one of `src`. -/
def NoneBlacker (src : Bitmap) (P : Set (Nat × Nat)) (b : Bitmap) : Prop :=
  ∀ i j, (i, j) ∈ P → pixelAt b i j = true → pixelAt src i j = true

/-- On a well-formed ROM, `dec` after `enc` on the bitmap `src` restores V and copies the pixels of `src` in `A`, onto any bitmap
with no additional black pixel in `P` and whatever R holds. `enc` writes V only. -/
def Restores (src : Bitmap) (P A : Set (Nat × Nat)) (enc dec : Proc) : Prop :=
  ∀ s t, romWellFormed s.cfg → s.bitmap = src → enc s = .ok t → t = { s with v := t.v } ∧
    ∀ r b, NoneBlacker src P b → ∃ r' b', dec { t with r := r, bitmap := b } = .ok { s with r := r', bitmap := b' } ∧
      CopiedFrom src A b b'

section RoundTrip

variable {src b b' b'' : Bitmap} {P Q A B : Set (Nat × Nat)} {enc enc' dec dec' : Proc} {k x y : Nat}

theorem CopiedFrom.trans (h : CopiedFrom src A b b') (h' : CopiedFrom src B b' b'') : CopiedFrom src (A ∪ B) b b'' := by
  intro i j
  obtain ⟨hin, hout⟩ := h i j
  obtain ⟨hin', hout'⟩ := h' i j
  refine ⟨fun hij => ?_, fun hij => ?_⟩
  · by_cases hB : (i, j) ∈ B
    · exact hin' hB
    · exact (hout' hB).trans (hin (hij.resolve_right hB))
  · exact (hout' fun hB => hij (.inr hB)).trans (hout fun hA => hij (.inl hA))

theorem NoneBlacker.copied (h : NoneBlacker src P b) (hcopy : CopiedFrom src A b b') : NoneBlacker src P b' := by
  intro i j hij hblack
  by_cases hA : (i, j) ∈ A
  · exact ((hcopy i j).1 hA).symm.trans hblack
  · exact h i j hij (((hcopy i j).2 hA).symm.trans hblack)

theorem NoneBlacker.subset (h : NoneBlacker src P b) (hQP : Q ⊆ P) : NoneBlacker src Q b :=
  fun i j hij => h i j (hQP hij)

theorem Restores.mono (h : Restores src P A enc dec) (hPQ : P ⊆ Q) : Restores src Q A enc dec := by
  intro s t hrom hsrc ht
  obtain ⟨hframe, hdec⟩ := h s t hrom hsrc ht
  exact ⟨hframe, fun r b hb => hdec r b (hb.subset hPQ)⟩

/-- Only what `enc` does on `src` matters. -/
theorem Restores.congr (h : Restores src P A enc dec) (henc : ∀ s, s.bitmap = src → enc' s = enc s) :
    Restores src P A enc' dec :=
  fun s t hrom hsrc ht => h s t hrom hsrc ((henc s hsrc).symm.trans ht)

/-- What is encoded last is decoded first. -/
theorem Restores.andThen (h : Restores src P A enc dec) (h' : Restores src P B enc' dec') :
    Restores src P (A ∪ B) (andThen enc' enc) (andThen dec dec') := by
  intro s t hrom hsrc ht
  obtain ⟨u, hu, ht⟩ := andThen_ok.mp ht
  obtain ⟨hframe', hdec'⟩ := h' s u hrom hsrc hu
  have hcfg : u.cfg = s.cfg := by rw [hframe']
  have hbitmap : u.bitmap = s.bitmap := by rw [hframe']
  obtain ⟨hframe, hdec⟩ := h u t (hcfg ▸ hrom) (hbitmap.trans hsrc) ht
  refine ⟨by rw [hframe, hframe'], fun r b hb => ?_⟩
  obtain ⟨r1, b1, h1, hcopy1⟩ := hdec r b hb
  obtain ⟨r2, b2, h2, hcopy2⟩ := hdec' r1 b1 (hb.copied hcopy1)
  exact ⟨r2, b2, (andThen_of_ok h1).trans h2, hcopy1.trans hcopy2⟩

/-- Quadrants encoded in reverse and decoded in order. -/
theorem Restores.quadrants {f g : Nat → Nat → Proc} {A : Nat → Nat → Set (Nat × Nat)} {h : Nat}
    (hf : OnQuadrants (fun x y => Restores src P (A x y) (f x y) (g x y)) h x y) :
    Restores src P (A x y ∪ (A (x + h) y ∪ (A x (y + h) ∪ A (x + h) (y + h)))) (inReverse f h x y) (inOrder g h x y) := by
  have := hf.topLeft.andThen (hf.topRight.andThen (hf.bottomLeft.andThen hf.bottomRight))
  rwa [andThen_assoc, andThen_assoc] at this

/-- A symbol pushed after `enc` is popped before `dec`. -/
theorem Restores.symbol {t n : Nat} (htable : t < 5) (h : Restores src P A enc dec)
    (hdec : ∀ {s s1}, pop t s = .ok s1 → s1.r = BitVec.ofNat 16 n → dec' s = dec s1) :
    Restores src P A (Machine.andThen enc (push t n)) dec' := by
  intro s u hrom hsrc hu
  obtain ⟨m, hm, hpush⟩ := andThen_ok.mp hu
  obtain ⟨hframe, hback⟩ := h s m hrom hsrc hm
  have hcfg : m.cfg = s.cfg := by rw [hframe]
  refine ⟨by rw [push_frame hpush, hframe], fun r b hb => ?_⟩
  rw [hdec (pop_of_push (hcfg ▸ hrom t htable) hpush r b) rfl]
  exact hback _ b hb

/-- Nothing is encoded of a white region, and nothing has to be decoded. -/
theorem restores_white (hwhite : ∀ i j, (i, j) ∈ A → pixelAt src i j = false) : Restores src A A .ok .ok := by
  intro s t hrom hsrc ht
  cases ht
  refine ⟨rfl, fun r b hb => ⟨r, b, rfl, fun i j => ⟨fun hij => ?_, fun _ => rfl⟩⟩⟩
  rw [hwhite i j hij, Bool.eq_false_iff]
  intro hblack
  exact absurd ((hb i j hij hblack).symm.trans (hwhite i j hij)) (by decide)

/-- Writing a block's pattern copies the block. -/
theorem writeBlock_copies (src b : Bitmap) (hgrid : InGrid 0 x y) :
    CopiedFrom src (region 0 x y) b (writeBlock b x y (blockPattern src x y)) := by
  refine fun i j => ⟨fun hij => ?_, pixelAt_writeBlock_of_not_mem b hgrid _⟩
  obtain ⟨h0, h1, h2, h3⟩ := testBit_blockPattern src x y
  rw [pixelAt_writeBlock b hgrid, h0, h1, h2, h3]
  obtain ⟨rfl | rfl, rfl | rfl⟩ := mem_region_zero.mp hij <;> simp

/-- DLEAF's procedure undoes ELEAF's, onto any bitmap. -/
theorem encodeLeaf_restores (hgrid : InGrid k x y) :
    Restores src ∅ (region k x y) (encodeLeaf k x y) (decodeLeaf k x y) := by
  induction k generalizing x y with
  | zero =>
    intro s t hrom hsrc ht
    subst hsrc
    have hpattern : (BitVec.ofNat 16 (blockPattern s.bitmap x y)).toNat = blockPattern s.bitmap x y :=
      ofNat_sixteen_toNat (lt_trans (blockPattern_lt _ _ _) (by decide))
    refine ⟨push_frame ht, fun r b _ => ⟨BitVec.ofNat 16 (blockPattern s.bitmap x y), _, ?_,
      writeBlock_copies s.bitmap b hgrid⟩⟩
    rw [decodeLeaf_zero, andThen_of_ok (pop_of_push (hrom leafTable (by decide)) ht r b), hpattern]
  | succ k ih =>
    rw [region_succ]
    exact .quadrants (hgrid.quadrants.imp ih)

theorem encodeRegion_restores_of_split (hgrid : InGrid k x y)
    (hsplit : ∀ m, k = m + 1 → Restores src (region k x y) (region k x y) (inReverse (encodeRegion m) (2 ^ (m + 1)) x y)
      (inOrder (decodeRegion m) (2 ^ (m + 1)) x y)) :
    Restores src (region k x y) (region k x y) (encodeRegion k x y) (decodeRegion k x y) := by
  have hlevel : 3 - k < 5 := by omega
  cases hwhite : allWhite src x y (2 ^ (k + 1)) with
  | true =>
    exact ((restores_white (allWhite_iff_region.mp hwhite)).symbol hlevel decodeRegion_of_empty).congr
      fun s hs => encodeRegion_of_white (hs ▸ hwhite)
  | false =>
    cases hblack : allBlack src k x y with
    | true =>
      exact (((encodeLeaf_restores hgrid).mono (Set.empty_subset _)).symbol hlevel decodeRegion_of_fill).congr
        fun s hs => encodeRegion_of_black (hs ▸ hwhite) (hs ▸ hblack)
    | false =>
      obtain ⟨m, rfl⟩ := exists_eq_succ_of_split hwhite hblack
      exact ((hsplit m rfl).symbol hlevel decodeRegion_of_split).congr
        fun s hs => encodeRegion_of_split (hs ▸ hwhite) (hs ▸ hblack)

/-- DRG's procedure undoes ERG's. -/
theorem encodeRegion_restores (hgrid : InGrid k x y) :
    Restores src (region k x y) (region k x y) (encodeRegion k x y) (decodeRegion k x y) := by
  induction k generalizing x y with
  | zero => exact encodeRegion_restores_of_split hgrid nofun
  | succ k ih =>
    refine encodeRegion_restores_of_split hgrid fun m hm => ?_
    obtain rfl := Nat.succ.inj hm
    have hquadrants := (hgrid.quadrants.and (quadrants_subset_region k x y)).imp
      fun ⟨hquad, hsub⟩ => (ih hquad).mono hsub
    have := Restores.quadrants hquadrants
    rwa [← region_succ] at this

end RoundTrip

end Sys2Proof.Machine

namespace Sys2Proof.Proofs

open Sys2Proof.Machine

/-- Settles O50: both encodings complete, and what they push the decodings take back (`encodeRegion_restores`,
`encodeLeaf_restores`). -/
theorem regionRoundTrip : Obligations.RegionRoundTrip := by
  intro x y l s b herr hwf hrom hcap inside
  have hok : regionOk x y l = true := (wellFormed_of_region (.inr (.inr (.inr rfl)))).symm.trans hwf
  have hgrid := inGrid_of_regionOk hok
  have hsource : HasSource s.cfg s.bitmap s := ⟨rfl, rfl⟩
  have hinside i j : inside i j ↔ (i, j) ∈ region (regionHeight l) x.toNat y.toNat := by
    rw [mem_region, ← two_pow_regionHeight_succ]
  simp only [hinside]
  refine ⟨fun hcomplete hwhite => ?_, fun hcounts => ?_⟩
  · obtain ⟨s1, hs1, -⟩ := encodeRegion_completesWithin hcomplete hcap (regionHeight l) x.toNat y.toNat s hsource
    obtain ⟨hframe, hback⟩ := encodeRegion_restores hgrid s s1 hrom rfl hs1
    have hnone : NoneBlacker s.bitmap (region (regionHeight l) x.toNat y.toNat) b := fun i j hij hb =>
      absurd (hb.symm.trans (hwhite i j hij)) (by decide)
    obtain ⟨r', b', hdec, hcopy⟩ := hback s1.r b hnone
    exact ⟨s1, _, (runsInside_erg hok).ok hs1, (runsInside_drg hok).ok hdec, herr, rfl, fun i j => (hcopy i j).1,
      fun i j => (hcopy i j).2⟩
  · rw [two_pow_regionHeight] at hcounts
    obtain ⟨s1, hs1, -⟩ :=
      (encodeLeaf_decidedBy hcap (regionHeight l) x.toNat y.toNat s hsource).1 hcounts
    obtain ⟨hframe, hback⟩ := encodeLeaf_restores hgrid s s1 hrom rfl hs1
    obtain ⟨r', b', hdec, hcopy⟩ := hback s1.r b nofun
    exact ⟨s1, _, (runsInside_eleaf hok).ok hs1, (runsInside_dleaf hok).ok hdec, herr, rfl, fun i j => (hcopy i j).1,
      fun i j => (hcopy i j).2⟩

end Sys2Proof.Proofs

/-! PROOF. The statements of the filter (spec/45_filter.md): the window and the context of a pixel, the predicted bit, and the two
passes, which are one relation between two bitmaps read in its two directions. -/

namespace Sys2Proof.Machine

/-! ### The window (R216, R217, R218) -/

/-- The offset `d` leads from (x, y) to a pixel of the grid (R216). -/
def offsetInside (x y : Nat) (d : Nat × Nat) : Bool :=
  decide (2 ≤ x + d.1 ∧ x + d.1 ≤ 49 ∧ 2 ≤ y + d.2)

theorem offsetInside_iff {x y : Nat} {d : Nat × Nat} :
    offsetInside x y d = true ↔ 2 ≤ x + d.1 ∧ x + d.1 ≤ 49 ∧ 2 ≤ y + d.2 := decide_eq_true_iff

/-- The window is the offsets that stay inside the grid, each moved to (x, y). -/
theorem window_eq (x y : Nat) :
    window x y = (windowOffsets.filter (offsetInside x y)).map fun d => (x + d.1 - 2, y + d.2 - 2) := by
  rw [window]
  induction windowOffsets with
  | nil => rfl
  | cons d ds ih => by_cases h : 2 ≤ x + d.1 ∧ x + d.1 ≤ 49 ∧ 2 ≤ y + d.2 <;> simp [offsetInside, h, ih]

theorem mem_window {x y : Nat} {p : Nat × Nat} : p ∈ window x y ↔
    ∃ d ∈ windowOffsets, (2 ≤ x + d.1 ∧ x + d.1 ≤ 49 ∧ 2 ≤ y + d.2) ∧ p = (x + d.1 - 2, y + d.2 - 2) := by
  simp only [window_eq, List.mem_map, List.mem_filter, offsetInside_iff, and_assoc, @eq_comm _ p]

/-- The offsets cover two columns to either side and two rows above; in the pixel's own row only the columns before it. -/
theorem windowOffsets_bounds : ∀ d ∈ windowOffsets, d.1 ≤ 4 ∧ d.2 ≤ 2 ∧ (d.2 = 2 → d.1 < 2) := by decide

/-- The window is inside the grid and causal (R216). -/
theorem window_bounds {x y : Nat} (hy : y < 48) {p : Nat × Nat} (hp : p ∈ window x y) :
    p.1 < 48 ∧ p.2 < 48 ∧ p.2 * 48 + p.1 < y * 48 + x ∧ x ≤ p.1 + 2 ∧ p.1 ≤ x + 2 ∧ y ≤ p.2 + 2 ∧ p.2 ≤ y := by
  obtain ⟨d, hd, hinside, rfl⟩ := mem_window.mp hp
  have := windowOffsets_bounds d hd
  dsimp only
  omega

/-- The window is visited column by column, top to bottom (R217). -/
theorem window_pairwise (x y : Nat) :
    (window x y).Pairwise fun p q => p.1 < q.1 ∨ (p.1 = q.1 ∧ p.2 < q.2) := by
  have horder : windowOffsets.Pairwise fun d e => d.1 < e.1 ∨ (d.1 = e.1 ∧ d.2 < e.2) := by decide
  rw [window_eq, List.pairwise_map]
  refine (horder.filter _).imp_of_mem fun hd he hde => ?_
  have hd := offsetInside_iff.mp (List.mem_filter.mp hd).2
  have he := offsetInside_iff.mp (List.mem_filter.mp he).2
  dsimp only
  omega

/-- How many offsets stay inside with `a` columns to the left, `b` to the right and `c` rows above, each at most two. -/
theorem countP_windowOffsets : ∀ a < 3, ∀ b < 3, ∀ c < 3,
    windowOffsets.countP (fun d => decide (2 ≤ a + d.1 ∧ d.1 ≤ b + 2 ∧ 2 ≤ c + d.2)) = (a + 1 + b) * c + a := by decide

/-- The size of the window (R218): only the two columns to either side and the two rows above count. -/
theorem length_window {x : Nat} (hx : x < 48) (y : Nat) : (window x y).length = contextBits x y := by
  rw [window_eq, List.length_map, ← List.countP_eq_length_filter, contextBits,
    ← countP_windowOffsets (min x 2) (by omega) (min (47 - x) 2) (by omega) (min y 2) (by omega)]
  refine List.countP_congr fun d hd => ?_
  have := windowOffsets_bounds d hd
  rw [offsetInside_iff, decide_eq_true_iff]
  omega

/-- A window that no edge of the grid cuts has every offset. -/
theorem window_of_interior {x y : Nat} (hx : x < 44) :
    window (x + 2) (y + 2) = windowOffsets.map fun d => (x + d.1, y + d.2) := by
  have hall : ∀ d ∈ windowOffsets, offsetInside (x + 2) (y + 2) d = true := fun d hd => by
    have := windowOffsets_bounds d hd
    rw [offsetInside_iff]
    omega
  rw [window_eq, List.filter_eq_self.mpr hall]
  refine List.map_congr_left fun d _ => Prod.ext ?_ ?_ <;> dsimp only <;> omega

/-! ### The context (R217, R218) -/

/-- Shifting bits in at the low end reads them as binary digits, the first the most significant. -/
theorem foldl_shift_eq_ofDigits {α : Type} (bit : α → Nat) (ps : List α) :
    ps.foldl (fun k p => 2 * k + bit p) 0 = Nat.ofDigits 2 (ps.reverse.map bit) := by
  induction ps using List.reverseRecOn with
  | nil => rfl
  | append_singleton ps p ih =>
    rw [List.foldl_append, ih, List.reverse_append, List.reverse_singleton, List.singleton_append, List.map_cons,
      Nat.ofDigits_cons]
    exact Nat.add_comm _ _

theorem context_eq_ofDigits (src : Bitmap) (x y : Nat) :
    context src x y = Nat.ofDigits 2 ((window x y).reverse.map fun p => (pixelAt src p.1 p.2).toNat) :=
  foldl_shift_eq_ofDigits _ _

theorem context_lt (src : Bitmap) {x : Nat} (hx : x < 48) (y : Nat) : context src x y < 2 ^ contextBits x y := by
  have hlen : ((window x y).reverse.map fun p => (pixelAt src p.1 p.2).toNat).length = contextBits x y := by
    rw [List.length_map, List.length_reverse, length_window hx]
  rw [context_eq_ofDigits, ← hlen]
  refine Nat.ofDigits_lt_base_pow_length Nat.one_lt_two fun k hk => ?_
  obtain ⟨p, -, rfl⟩ := List.mem_map.mp hk
  exact Bool.toNat_lt _

/-- The context reads the window only. -/
theorem context_congr {a b : Bitmap} {x y : Nat} (h : ∀ p ∈ window x y, pixelAt a p.1 p.2 = pixelAt b p.1 p.2) :
    context a x y = context b x y :=
  List.foldl_ext _ _ _ fun _ p hp => by rw [h p hp]

/-! ### The position class (R219) -/

theorem xBucket_eq {x : Nat} (hx : x < 48) : xBucket x = if x ≤ 2 then 0 else if x = 47 then 2 else 1 := by
  unfold xBucket
  split_ifs <;> omega

theorem xBucket_lt (x : Nat) : xBucket x < 3 := by
  unfold xBucket
  split_ifs <;> omega

theorem yBucket_eq (y : Nat) : yBucket y = min y 3 := by
  unfold yBucket
  split_ifs <;> omega

theorem positionClass_lt (x y : Nat) : positionClass x y < 12 := by
  have := xBucket_lt x
  rw [positionClass, yBucket_eq]
  omega

/-! ### The predicted bit (R220) -/

/-- Every position class has an offset. -/
theorem getElem?_foff (cfg : Config) (x y : Nat) :
    cfg.foff[positionClass x y]? = some (cfg.foff[positionClass x y]'(positionClass_lt x y)) :=
  Vector.getElem?_eq_getElem _

section Predict

variable {cfg : Config} {src : Bitmap} {x y off : Nat}

theorem predict_of_le (hoff : cfg.foff[positionClass x y]? = some off) (h : cfg.ftBits ≤ context src x y + off) :
    predict cfg src x y = .error .modelFault := by
  simp [predict, hoff, h]

theorem predict_of_lt (hoff : cfg.foff[positionClass x y]? = some off) (h : context src x y + off < cfg.ftBits) :
    predict cfg src x y = .ok (cfg.ftab.getLsbD (context src x y + off)) := by
  simp [predict, hoff, Nat.not_le.mpr h]

/-- A prediction faults only with MODEL_FAULT. -/
theorem eq_modelFault_of_predict_error {c : FaultCause} (h : predict cfg src x y = .error c) : c = .modelFault := by
  obtain hle | hlt := le_or_gt cfg.ftBits (context src x y + cfg.foff[positionClass x y]'(positionClass_lt x y))
  · exact (Except.error.inj ((predict_of_le (getElem?_foff cfg x y) hle).symm.trans h)).symm
  · rw [predict_of_lt (getElem?_foff cfg x y) hlt] at h
    cases h

/-- On a filter-complete ROM every prediction has its entry in the table (R56). -/
theorem predict_of_filterComplete (hcomplete : filterComplete cfg) (src : Bitmap) (hx : x < 48) (hy : y < 48) :
    ∃ p, predict cfg src x y = .ok p := by
  have hroom := hcomplete y hy x hx
  rw [getElem?_foff, Option.getD_some] at hroom
  have hctx := context_lt src hx y
  exact ⟨_, predict_of_lt (getElem?_foff cfg x y) (by omega)⟩

end Predict

/-- Two bitmaps with the same pixels before the raster index `n` (R215). -/
def AgreeBelow (n : Nat) (a b : Bitmap) : Prop := ∀ j < n, pixel a j = pixel b j

/-- The prediction for a pixel reads earlier pixels only (R216). -/
theorem predict_congr {a b : Bitmap} {n : Nat} (hn : n < 2304) (h : AgreeBelow n a b) (cfg : Config) :
    predict cfg a (n % 48) (n / 48) = predict cfg b (n % 48) (n / 48) := by
  have hctx : context a (n % 48) (n / 48) = context b (n % 48) (n / 48) := context_congr fun p hp => by
    obtain ⟨hx, -, hearlier, -⟩ := window_bounds (by omega) hp
    rw [← pixel_rasterIndex a hx, ← pixel_rasterIndex b hx]
    exact h _ (by unfold rasterIndex; omega)
  simp only [predict, hctx]

/-! ### One pass as a relation between two bitmaps (R221, R222) -/

/-- Pixel (x, y) of `t` is that of `g` xored with its prediction from `ref`. -/
def FilteredAt (cfg : Config) (ref g t : Bitmap) (x y : Nat) : Prop :=
  ∃ p, predict cfg ref x y = .ok p ∧ pixelAt t x y = (pixelAt g x y ^^ p)

/-- The same prediction, xored in again, leads back. -/
theorem FilteredAt.symm {cfg : Config} {ref g t : Bitmap} {x y : Nat} (h : FilteredAt cfg ref g t x y) :
    FilteredAt cfg ref t g x y := by
  obtain ⟨p, hp, ht⟩ := h
  exact ⟨p, hp, by rw [ht, Bool.xor_assoc, Bool.xor_self, Bool.xor_false]⟩

/-- Every pixel of the grid, by row and column or by raster index (R215). -/
theorem forall_raster {P : Nat → Nat → Prop} : (∀ i < 2304, P (i % 48) (i / 48)) ↔ ∀ y < 48, ∀ x < 48, P x y := by
  refine ⟨fun h y hy x hx => ?_, fun h i hi => h _ (by omega) _ (by omega)⟩
  have := h (y * 48 + x) (by omega)
  rwa [show (y * 48 + x) % 48 = x by omega, show (y * 48 + x) / 48 = y by omega] at this

theorem AgreeBelow.symm {n : Nat} {a b : Bitmap} (h : AgreeBelow n a b) : AgreeBelow n b a :=
  fun j hj => (h j hj).symm

theorem AgreeBelow.mono {m n : Nat} {a b : Bitmap} (h : AgreeBelow n a b) (hmn : m ≤ n) : AgreeBelow m a b :=
  fun j hj => h j (hj.trans_le hmn)

/-- A write leaves the earlier pixels as they were. -/
theorem agreeBelow_setPixel (b : Bitmap) {n : Nat} (hn : n < 2304) (v : Bool) : AgreeBelow n (setPixel b n v) b :=
  fun j hj => by rw [pixel_setPixel b hn, if_neg hj.ne]

/-- Where a pass over `g` that stands at the bitmap `dst` reads from (R221, R222): what it reads before a pixel follows from the
pixels of `dst` before it, and a pixel it has not written yet reads as in `g`. -/
structure CausalSource (g : Bitmap) (src : Bitmap → Bitmap) : Prop where
  below : ∀ {n : Nat} {a b : Bitmap}, AgreeBelow n a b → AgreeBelow n (src a) (src b)
  current : ∀ {n : Nat} {a : Bitmap}, pixel a n = pixel g n → pixel (src a) n = pixel g n

/-- FENC reads the bitmap as it was. -/
theorem causalSource_original (g : Bitmap) : CausalSource g fun _ => g := ⟨fun _ _ _ => rfl, fun _ => rfl⟩

/-- FDEC reads the bitmap as it stands. -/
theorem causalSource_restored (g : Bitmap) : CausalSource g id := ⟨id, id⟩

/-- The first `n` steps of a pass over `g` that reads from `src`. -/
def filterPass (cfg : Config) (src : Bitmap → Bitmap) (g : Bitmap) (n : Nat) : Except FaultCause Bitmap :=
  (List.range n).foldlM (fun dst i => filterPixel cfg (src dst) dst i) g

theorem filterPass_succ (cfg : Config) (src : Bitmap → Bitmap) (g : Bitmap) (n : Nat) :
    filterPass cfg src g (n + 1) = filterPass cfg src g n >>= fun a => filterPixel cfg (src a) a n := by
  rw [filterPass, List.range_succ, List.foldlM_append]
  simp [filterPass]

/-- `t` is `g` with its first `n` pixels filtered, each prediction read from `src t`. -/
structure FilteredBelow (cfg : Config) (src : Bitmap → Bitmap) (g : Bitmap) (n : Nat) (t : Bitmap) : Prop where
  filtered : ∀ i < n, FilteredAt cfg (src t) g t (i % 48) (i / 48)
  rest : ∀ i, n ≤ i → i < 2304 → pixel t i = pixel g i

section Pass

variable {cfg : Config} {g a t : Bitmap} {src : Bitmap → Bitmap} {n i : Nat} {c : FaultCause}

/-- Whether a pixel is filtered does not depend on later pixels. -/
theorem FilteredAt.congr (hsrc : CausalSource g src) (hi : i < 2304) (h : AgreeBelow (i + 1) a t)
    (ha : FilteredAt cfg (src a) g a (i % 48) (i / 48)) : FilteredAt cfg (src t) g t (i % 48) (i / 48) := by
  obtain ⟨p, hp, hpixel⟩ := ha
  exact ⟨p, (predict_congr hi (hsrc.below (h.mono i.le_succ)) cfg).symm.trans hp, (h i i.lt_succ_self).symm.trans hpixel⟩

/-- One more step filters one more pixel. -/
theorem FilteredBelow.step (hsrc : CausalSource g src) (hn : n < 2304) (h : FilteredBelow cfg src g n a) {p : Bool}
    (hp : predict cfg (src a) (n % 48) (n / 48) = .ok p) :
    FilteredBelow cfg src g (n + 1) (setPixel a n (pixel (src a) n ^^ p)) := by
  have hagree := (agreeBelow_setPixel a hn (pixel (src a) n ^^ p)).symm
  refine ⟨fun i hi => ?_, fun i hi hlt => ?_⟩
  · obtain hlt | rfl := Nat.lt_succ_iff_lt_or_eq.mp hi
    · exact (h.filtered i hlt).congr hsrc (hlt.trans hn) (hagree.mono hlt)
    · refine ⟨p, (predict_congr hn (hsrc.below hagree) cfg).symm.trans hp, ?_⟩
      show pixel (setPixel a i (pixel (src a) i ^^ p)) i = (pixel g i ^^ p)
      rw [pixel_setPixel a hn, if_pos rfl, hsrc.current (h.rest i le_rfl hn)]
  · rw [pixel_setPixel a hn, if_neg (Nat.ne_of_gt hi)]
    exact h.rest i (Nat.le_of_succ_le hi) hlt

/-- A bitmap with one more pixel filtered is one step after the bitmap with that pixel as it was. -/
theorem FilteredBelow.exists_step (hsrc : CausalSource g src) (hn : n < 2304) (h : FilteredBelow cfg src g (n + 1) t) :
    ∃ a, FilteredBelow cfg src g n a ∧ filterPixel cfg (src a) a n = .ok t := by
  have hagree := (agreeBelow_setPixel t hn (pixel g n)).symm
  have hback : FilteredBelow cfg src g n (setPixel t n (pixel g n)) := by
    refine ⟨fun i hi => (h.filtered i (hi.trans n.lt_succ_self)).congr hsrc (hi.trans hn) (hagree.mono hi),
      fun i hi hlt => ?_⟩
    rw [pixel_setPixel t hn]
    split_ifs with hin
    · rw [hin]
    · exact h.rest i (by omega) hlt
  obtain ⟨p, hp, hpixel⟩ := h.filtered n n.lt_succ_self
  refine ⟨_, hback, filterPixel_ok.mpr ⟨p, (predict_congr hn (hsrc.below hagree) cfg).symm.trans hp, ?_⟩⟩
  rw [hsrc.current (hback.rest n le_rfl hn)]
  refine bitmap_ext_pixel fun j _ => ?_
  rw [pixel_setPixel _ hn, pixel_setPixel t hn]
  split_ifs with hjn
  · exact hjn ▸ hpixel
  · rfl

/-- The pass completes in exactly the bitmap whose pixels are filtered so. -/
theorem filterPass_ok_iff (hsrc : CausalSource g src) (hn : n ≤ 2304) :
    filterPass cfg src g n = .ok t ↔ FilteredBelow cfg src g n t := by
  induction n generalizing t with
  | zero =>
    refine ⟨fun h => ?_, fun h => ?_⟩
    · cases h
      exact ⟨nofun, fun _ _ _ => rfl⟩
    · exact congrArg Except.ok (bitmap_ext_pixel fun i hi => (h.rest i i.zero_le hi).symm)
  | succ n ih =>
    rw [filterPass_succ, bind_eq_ok]
    refine ⟨fun ⟨a, ha, hstep⟩ => ?_, fun h => ?_⟩
    · obtain ⟨p, hp, rfl⟩ := filterPixel_ok.mp hstep
      exact ((ih (Nat.le_of_succ_le hn)).mp ha).step hsrc hn hp
    · obtain ⟨a, ha, hstep⟩ := h.exists_step hsrc hn
      exact ⟨a, (ih (Nat.le_of_succ_le hn)).mpr ha, hstep⟩

/-- A pass that faults met a prediction that faults. -/
theorem filterPass_error (h : filterPass cfg src g n = .error c) :
    ∃ i < n, ∃ a, predict cfg (src a) (i % 48) (i / 48) = .error c := by
  induction n with
  | zero => cases h
  | succ n ih =>
    rw [filterPass_succ] at h
    obtain h | ⟨a, -, h⟩ := bind_eq_error.mp h
    · obtain ⟨i, hi, ha⟩ := ih h
      exact ⟨i, hi.trans n.lt_succ_self, ha⟩
    · obtain h | ⟨p, -, h⟩ := bind_eq_error.mp h
      · exact ⟨n, n.lt_succ_self, a, h⟩
      · cases h

end Pass

/-- The whole pass over `g` ends in `t`: every pixel is filtered. -/
def Filters (cfg : Config) (src : Bitmap → Bitmap) (g t : Bitmap) : Prop :=
  ∀ i < 2304, FilteredAt cfg (src t) g t (i % 48) (i / 48)

section WholePass

variable {cfg : Config} {g t : Bitmap} {src : Bitmap → Bitmap}

theorem filterPass_whole_ok_iff (hsrc : CausalSource g src) :
    filterPass cfg src g 2304 = .ok t ↔ Filters cfg src g t :=
  (filterPass_ok_iff hsrc le_rfl).trans ⟨FilteredBelow.filtered, fun h => ⟨h, fun _ hle hlt => absurd hlt hle.not_gt⟩⟩

/-- A pass whose predictions all have their entries completes. -/
theorem exists_filters (hsrc : CausalSource g src)
    (h : ∀ a, ∀ y < 48, ∀ x < 48, ∃ p, predict cfg (src a) x y = .ok p) : ∃ t, Filters cfg src g t := by
  cases hpass : filterPass cfg src g 2304 with
  | ok t => exact ⟨t, (filterPass_whole_ok_iff hsrc).mp hpass⟩
  | error c =>
    obtain ⟨i, hi, a, herror⟩ := filterPass_error hpass
    obtain ⟨p, hp⟩ := forall_raster.mpr (h a) i hi
    cases herror.symm.trans hp

/-- A pass that ends in no bitmap faults with MODEL_FAULT (R265). -/
theorem filterPass_modelFault (hsrc : CausalSource g src) (h : ∀ t, ¬ Filters cfg src g t) :
    filterPass cfg src g 2304 = .error .modelFault := by
  cases hpass : filterPass cfg src g 2304 with
  | ok t => exact absurd ((filterPass_whole_ok_iff hsrc).mp hpass) (h t)
  | error c =>
    obtain ⟨i, -, a, herror⟩ := filterPass_error hpass
    rw [eq_modelFault_of_predict_error herror]

end WholePass

/-- The pixels restored before the raster index `n` are determined: each follows from those before it (R222). -/
theorem agreeBelow_of_restored {cfg : Config} {g a b : Bitmap} {n : Nat} (hn : n ≤ 2304)
    (ha : ∀ i < n, FilteredAt cfg a g a (i % 48) (i / 48)) (hb : ∀ i < n, FilteredAt cfg b g b (i % 48) (i / 48)) :
    AgreeBelow n a b := by
  intro i
  induction i using Nat.strongRecOn with
  | ind i ih =>
    intro hi
    obtain ⟨p, hp, hpa⟩ := ha i hi
    obtain ⟨q, hq, hqb⟩ := hb i hi
    have hpq : p = q := by
      rw [predict_congr (hi.trans_le hn) (fun j hj => ih j hj (hj.trans hi)) cfg, hq] at hp
      exact (Except.ok.inj hp).symm
    exact hpa.trans (hpq ▸ hqb.symm)

/-! ### The two commands -/

/-- A command that writes the bitmap only, its procedure faulted: the bitmap is free, the fault is named (R272). -/
theorem RunsInside.error_of_writes_bitmap {i : Instr} {p : Proc} {s : State} {c : FaultCause} (h : RunsInside i p)
    (hp : p s = .error c) (hv : writesV i = false) (hr : writesR i = false) (ht : writesText i = false) :
    ∃ b, exec i s = .next { s with
      bitmap := b, draws := s.draws + 1, err := true, cause := some c, info := encode i } := by
  obtain ⟨v, r, b, txt, hexec, hv', hr', -, ht'⟩ := h.error hp
  obtain rfl := hv' hv
  obtain rfl := hr' hr
  obtain rfl := ht' ht
  exact ⟨b, hexec⟩

theorem runsInside_fenc : RunsInside .fenc filterEnc :=
  runsInside_of_checked rfl fun _ => congrArg Host.Outcome.next (checked_of_wellFormed rfl).symm

theorem runsInside_fdec : RunsInside .fdec filterDec :=
  runsInside_of_checked rfl fun _ => congrArg Host.Outcome.next (checked_of_wellFormed rfl).symm

theorem filterEnc_eq (s : State) : filterEnc s =
    filterPass s.cfg (fun _ => s.bitmap) s.bitmap 2304 >>= fun b => .ok { s with bitmap := b } := rfl

theorem filterDec_eq (s : State) : filterDec s =
    filterPass s.cfg id s.bitmap 2304 >>= fun b => .ok { s with bitmap := b } := rfl

section Commands

variable {s : State} {t : Bitmap}

theorem exec_fenc_of_filters (h : Filters s.cfg (fun _ => s.bitmap) s.bitmap t) :
    exec .fenc s = .next { s with bitmap := t } :=
  runsInside_fenc.ok (by rw [filterEnc_eq, (filterPass_whole_ok_iff (causalSource_original _)).mpr h]; rfl)

theorem exec_fdec_of_filters (h : Filters s.cfg id s.bitmap t) : exec .fdec s = .next { s with bitmap := t } :=
  runsInside_fdec.ok (by rw [filterDec_eq, (filterPass_whole_ok_iff (causalSource_restored _)).mpr h]; rfl)

theorem exec_fenc_of_not_filters (h : ∀ t, ¬ Filters s.cfg (fun _ => s.bitmap) s.bitmap t) :
    ∃ b, exec .fenc s = .next { s with
      bitmap := b, draws := s.draws + 1, err := true, cause := some .modelFault, info := encode .fenc } :=
  runsInside_fenc.error_of_writes_bitmap
    (by rw [filterEnc_eq, filterPass_modelFault (causalSource_original _) h]; rfl) rfl rfl rfl

theorem exec_fdec_of_not_filters (h : ∀ t, ¬ Filters s.cfg id s.bitmap t) :
    ∃ b, exec .fdec s = .next { s with
      bitmap := b, draws := s.draws + 1, err := true, cause := some .modelFault, info := encode .fdec } :=
  runsInside_fdec.error_of_writes_bitmap
    (by rw [filterDec_eq, filterPass_modelFault (causalSource_restored _) h]; rfl) rfl rfl rfl

end Commands

/-- Two well-formed commands, neither of which meets a recorded fault (R244). -/
theorem presentAll_pair {i j : Instr} {s t u : State} (hi : i.wellFormed = true) (hj : j.wellFormed = true)
    (hs : s.err = false) (hst : exec i s = .next t) (ht : t.err = false) (htu : exec j t = .next u) :
    presentAll [i, j] s = .next u := by
  rw [presentAll_cons ((present_encode hs hi).trans hst), presentAll_singleton, present_encode ht hj, htu]

/-- `t` is FENC of `g` exactly when `g` is FDEC of `t`: both predict from `g` (R223). -/
theorem filters_original_iff_restored {cfg : Config} {g t : Bitmap} :
    Filters cfg (fun _ => g) g t ↔ Filters cfg id t g :=
  ⟨fun h i hi => (h i hi).symm, fun h i hi => (h i hi).symm⟩

end Sys2Proof.Machine

namespace Sys2Proof.Proofs

open Sys2Proof.Machine

/-- Settles O51: the window from its offsets, the context from its binary digits. -/
theorem filterContextAndClass : Obligations.FilterContextAndClass := by
  refine ⟨fun y hy x hx => ⟨length_window hx y, window_pairwise x y, fun p => window_bounds hy⟩,
    fun src x y hx _ => ⟨context_lt src hx y, context_eq_ofDigits src x y⟩, fun src x y hx _ => ?_,
    fun y _ x hx => ⟨positionClass_lt x y, ?_⟩⟩
  · simp only [context, window_of_interior hx, windowOffsets, List.map_cons, List.map_nil, List.foldl_cons, List.foldl_nil,
      Nat.add_zero]
    ring
  · rw [positionClass, yBucket_eq, xBucket_eq hx]

/-- Settles O52: FENC ends in the bitmap filtered from the original (`filterPass_ok_iff`), or in no bitmap. -/
theorem fencXorsPredictionFromOriginal : Obligations.FencXorsPredictionFromOriginal := by
  refine ⟨rfl, fun cfg src y _ x _ => ⟨_, getElem?_foff cfg x y, predict_of_le (getElem?_foff cfg x y),
    predict_of_lt (getElem?_foff cfg x y)⟩, fun s => ⟨fun hcomplete y hy x hx =>
      predict_of_filterComplete hcomplete s.bitmap hx hy, fun hall => ?_, fun ⟨x, y, hx, hy, herror⟩ => ?_⟩⟩
  · obtain ⟨t, ht⟩ := exists_filters (causalSource_original s.bitmap) fun _ => hall
    exact ⟨t, exec_fenc_of_filters ht, forall_raster.mp ht⟩
  · refine exec_fenc_of_not_filters fun t ht => ?_
    obtain ⟨p, hp, -⟩ := forall_raster.mp ht y hy x hx
    cases herror.symm.trans hp

/-- Settles O53: FDEC ends in the bitmap filtered from itself; where a restored part leads to a prediction that faults, there is no
such bitmap (`agreeBelow_of_restored`). -/
theorem fdecXorsPredictionFromRestored : Obligations.FdecXorsPredictionFromRestored := by
  refine ⟨rfl, fun s => ⟨fun hcomplete => ?_, fun b hb => exec_fdec_of_filters hb, fun b n hn hb herror => ?_⟩⟩
  · obtain ⟨t, ht⟩ := exists_filters (causalSource_restored s.bitmap) fun a y hy x hx =>
      predict_of_filterComplete hcomplete a hx hy
    exact ⟨t, exec_fdec_of_filters ht, forall_raster.mp ht⟩
  · refine exec_fdec_of_not_filters fun t ht => ?_
    have hagree : AgreeBelow n t b := agreeBelow_of_restored hn.le (fun i hi => ht i (hi.trans hn)) hb
    obtain ⟨p, hp, -⟩ := ht n hn
    rw [id, predict_congr hn hagree, herror] at hp
    cases hp

/-- Settles O54: what one command makes, the other takes back (`filters_original_iff_restored`). -/
theorem filterPassesAreInverse : Obligations.FilterPassesAreInverse := by
  intro s herr hcomplete
  have hpredict a y (hy : y < 48) x (hx : x < 48) := predict_of_filterComplete hcomplete a hx hy
  constructor
  · obtain ⟨t, ht⟩ := exists_filters (causalSource_original s.bitmap) fun _ => hpredict s.bitmap
    exact presentAll_pair rfl rfl herr (exec_fenc_of_filters ht) herr
      (exec_fdec_of_filters (filters_original_iff_restored.mp ht))
  · obtain ⟨t, ht⟩ := exists_filters (causalSource_restored s.bitmap) hpredict
    exact presentAll_pair rfl rfl herr (exec_fdec_of_filters ht) herr
      (exec_fenc_of_filters (filters_original_iff_restored.mpr ht))

end Sys2Proof.Proofs

/-! PROOF. The statements of the orchestration sequencer (spec/46_orchestration.md): DEC and ENC are their component commands, they
complete on a sound ROM (ENC by a bound on what its pushes make of V), and decoding an encoded image restores it; HDR. -/

namespace Sys2Proof.Machine

/-! ### The top-level regions, one after another (R68, R236) -/

/-- `f` at the origins of the top-level regions `ks`, in that order. -/
def overRegions (f : Nat → Nat → Proc) : List Nat → Proc
  | [] => .ok
  | k :: ks => andThen (f (regionOrigin k).1 (regionOrigin k).2) (overRegions f ks)

/-- The places of the top-level regions `ks`. -/
def regions : List Nat → Set (Nat × Nat)
  | [] => ∅
  | k :: ks => region 3 (regionOrigin k).1 (regionOrigin k).2 ∪ regions ks

section OverRegions

variable {f : Nat → Nat → Proc} {k : Nat} {ks : List Nat} {s t : State}

/-- The loops of R237 and R239 are such sequences. -/
theorem foldlM_eq_overRegions (f : Nat → Nat → Proc) (ks : List Nat) (s : State) :
    ks.foldlM (fun s k => f (regionOrigin k).1 (regionOrigin k).2 s) s = overRegions f ks s := by
  induction ks generalizing s with
  | nil => rfl
  | cons k ks ih => exact congrArg (f (regionOrigin k).1 (regionOrigin k).2 s >>= ·) (funext ih)

theorem decodeRegions_eq : decodeRegions = overRegions (decodeRegion 3) (List.range 9) :=
  funext (foldlM_eq_overRegions (decodeRegion 3) (List.range 9))

theorem encodeRegions_eq : encodeRegions = overRegions (encodeRegion 3) (List.range 9).reverse :=
  funext (foldlM_eq_overRegions (encodeRegion 3) (List.range 9).reverse)

theorem overRegions_append_singleton (f : Nat → Nat → Proc) (ks : List Nat) (k : Nat) :
    overRegions f (ks ++ [k]) = andThen (overRegions f ks) (f (regionOrigin k).1 (regionOrigin k).2) := by
  induction ks with
  | nil => exact funext fun s => bind_pure (f _ _ s)
  | cons j ks ih =>
    rw [overRegions, andThen_assoc, ← ih]
    rfl

theorem inGrid_regionOrigin (hk : k < 9) : InGrid 3 (regionOrigin k).1 (regionOrigin k).2 := by
  constructor <;> simp only [regionOrigin] <;> omega

/-- The operands of a top-level region are in range, and they are its origin (R68, R101). -/
theorem regionOk_top : ∀ k < 9, regionOk (topX k) (topY k) 0 = true ∧
    (topX k).toNat = (regionOrigin k).1 ∧ (topY k).toNat = (regionOrigin k).2 := by
  decide

/-- Every place of the grid lies in one of the nine regions (R68). -/
theorem mem_regions_of_grid {x y : Nat} (hx : x < 48) (hy : y < 48) : (x, y) ∈ regions (List.range 9) := by
  simp only [List.range, List.range.loop, regions, regionOrigin, Set.mem_union, mem_region]
  omega

theorem does_nil : Does [] .ok where
  ok herr h := by
    cases h
    exact ⟨rfl, herr⟩
  error _ h := by cases h
  dropped _ := rfl

/-- A region command at each of the regions does what its procedure does over them. -/
theorem does_overRegions {cmd : Byte → Byte → BitVec 2 → Instr} {proc : Nat → Nat → Nat → Proc}
    (hcmd : ∀ {x y l}, regionOk x y l = true → Does [cmd x y l] (proc (regionHeight l) x.toNat y.toNat))
    (hks : ∀ k ∈ ks, k < 9) : Does (ks.map fun k => cmd (topX k) (topY k) 0) (overRegions (proc 3) ks) := by
  induction ks with
  | nil => exact does_nil
  | cons k ks ih =>
    obtain ⟨hok, hx, hy⟩ := regionOk_top k (hks k List.mem_cons_self)
    have hfirst := hcmd hok
    rw [hx, hy] at hfirst
    exact hfirst.append (ih fun j hj => hks j (List.mem_cons_of_mem k hj))

end OverRegions

/-! ### DEC and ENC as their components (R237, R239, R244) -/

/-- BCLR as a procedure (R173). -/
def clearB : Proc := fun s => .ok (clearBitmap s)

/-- VCLR as a procedure (R126). -/
def clearV : Proc := fun s => .ok { s with v := 0 }

theorem decodeImage_eq : decodeImage = andThen clearB (andThen decodeRegions filterDec) := rfl

theorem encodeImage_eq : encodeImage = andThen filterEnc (andThen clearV (andThen encodeRegions txout)) := rfl

theorem andThen_clearB (p : Proc) (s : State) : andThen clearB p s = p (clearBitmap s) := rfl

theorem andThen_clearV (p : Proc) (s : State) : andThen clearV p s = p { s with v := 0 } := rfl

theorem does_bclr : Does [.bclr] clearB :=
  does_of_exec rfl Instr.noConfusion Instr.noConfusion
    (fun h => by
      cases h
      exact ⟨rfl, rfl⟩)
    nofun

theorem does_vclr : Does [.vclr] clearV :=
  does_of_exec rfl Instr.noConfusion Instr.noConfusion
    (fun h => by
      cases h
      exact ⟨rfl, rfl⟩)
    nofun

theorem does_fenc : Does [.fenc] filterEnc :=
  runsInside_fenc.does rfl Instr.noConfusion Instr.noConfusion fun h => by rw [filterEnc_frame h]

theorem does_fdec : Does [.fdec] filterDec :=
  runsInside_fdec.does rfl Instr.noConfusion Instr.noConfusion fun h => by rw [filterDec_frame h]

theorem runsInside_txout : RunsInside .txout txout :=
  runsInside_of_checked rfl fun _ => congrArg Host.Outcome.next (checked_of_wellFormed rfl).symm

theorem does_txout : Does [.txout] txout :=
  runsInside_txout.does rfl Instr.noConfusion Instr.noConfusion fun h => by
    rw [txout_ok h]
    rfl

theorem runsInside_dec : RunsInside .dec decodeImage :=
  runsInside_of_checked rfl fun _ => congrArg Host.Outcome.next (checked_of_wellFormed rfl).symm

theorem runsInside_enc : RunsInside (.enc 48 48) encodeImage :=
  runsInside_of_checked rfl fun _ =>
    congrArg Host.Outcome.next ((if_neg (by decide)).trans (checked_of_wellFormed rfl).symm)

theorem does_decodeComponents : Does decodeComponents decodeImage := by
  have hregions : Does _ (overRegions (decodeRegion 3) (List.range 9)) :=
    does_overRegions does_drg fun k => List.mem_range.mp
  rw [← decodeRegions_eq] at hregions
  rw [decodeImage_eq, ← andThen_assoc]
  exact (does_bclr.append hregions).append does_fdec

theorem does_encodeComponents : Does encodeComponents encodeImage := by
  have hregions : Does _ (overRegions (encodeRegion 3) (List.range 9).reverse) :=
    does_overRegions does_erg fun k hk => List.mem_range.mp (List.mem_reverse.mp hk)
  rw [← encodeRegions_eq] at hregions
  rw [encodeImage_eq, ← andThen_assoc, ← andThen_assoc]
  exact ((does_fenc.append does_vclr).append hregions).append does_txout

/-! ### DEC completes (R238) -/

section DecodeCompletes

variable {cfg : Config} {s t : State}

theorem overRegions_completesWithin {I : State → Prop} {f : Nat → Nat → Proc} (hf : ∀ x y, CompletesWithin I (f x y))
    (ks : List Nat) : CompletesWithin I (overRegions f ks) := by
  induction ks with
  | nil => exact fun s hs => ⟨s, rfl, hs⟩
  | cons k ks ih => exact (hf _ _).andThen ih

theorem filterDec_of_filters {b : Bitmap} (h : Filters s.cfg id s.bitmap b) : filterDec s = .ok { s with bitmap := b } := by
  rw [filterDec_eq, (filterPass_whole_ok_iff (causalSource_restored _)).mpr h]
  rfl

theorem filterDec_completesWithin (hcomplete : filterComplete cfg) : CompletesWithin (HasConfig cfg) filterDec := by
  rintro s rfl
  obtain ⟨b, hb⟩ := exists_filters (causalSource_restored s.bitmap) fun a y hy x hx =>
    predict_of_filterComplete hcomplete a hx hy
  exact ⟨_, filterDec_of_filters hb, rfl⟩

theorem decodeImage_completesWithin (hrom : romWellFormed cfg) (hcomplete : filterComplete cfg) (hdeep : noDeepSplit cfg) :
    CompletesWithin (HasConfig cfg) decodeImage := by
  have hclear : CompletesWithin (HasConfig cfg) clearB := fun s hs => ⟨_, rfl, hs⟩
  rw [decodeImage_eq, decodeRegions_eq]
  exact hclear.andThen ((overRegions_completesWithin (decodeRegion_completesWithin hrom hdeep 3) _).andThen
    (filterDec_completesWithin hcomplete))

/-- DEC writes V, R and the bitmap only (R237). -/
theorem decodeImage_frame (h : decodeImage s = .ok t) : t = { s with v := t.v, r := t.r, bitmap := t.bitmap } := by
  have hends : Completes .dec s t := decodeImage_completes rfl rfl rfl h
  calc t = _ := hends.same
    _ = _ := by rw [hends.ptr rfl, hends.text rfl, hends.ne rfl]

end DecodeCompletes

/-! ### The pushes of an ENC (R321)

A push on a well-formed table makes V at most a byte longer, so n pushes from V = 0 leave V below `256^n`. -/

/-- The most pushes `encode_region` makes at height k: a symbol and a pattern for a 2×2 block, else those of four quadrants and
the symbol. -/
def regionPushes : Nat → Nat
  | 0 => 2
  | k + 1 => 4 * regionPushes k + 1

/-- The most pushes of an image. -/
def imagePushes : Nat := 9 * regionPushes 3

theorem imagePushes_eq : imagePushes = 1341 := rfl

theorem four_pow_lt_regionPushes (k : Nat) : 4 ^ k < regionPushes k := by
  induction k with
  | zero => decide
  | succ k ih =>
    rw [pow_succ', regionPushes]
    omega

/-- On the bitmap `b`, the procedure completes and makes V at most `n` bytes longer, as long as V stays within `imagePushes` bytes;
it writes neither the tables nor the bitmap. -/
def PushesAtMost (cfg : Config) (b : Bitmap) (n : Nat) (p : Proc) : Prop :=
  ∀ m s, m + n ≤ imagePushes → HasSource cfg b s → s.v < 256 ^ m →
    ∃ t, p s = .ok t ∧ HasSource cfg b t ∧ t.v < 256 ^ (m + n)

/-- A push makes V at most a byte longer. -/
theorem pushedV_lt {row : RomRow} {v m : Nat} (hcount : row.count.val ≠ 0) (hrange : row.base.val + row.count.val ≤ 256)
    (hv : v < 256 ^ m) : pushedV row v < 256 ^ (m + 1) := by
  have hdiv : v / row.count.val < 256 ^ m := (Nat.div_le_self _ _).trans_lt hv
  have hmod : v % row.count.val < row.count.val := Nat.mod_lt _ (Nat.pos_of_ne_zero hcount)
  rw [pushedV, pow_succ]
  omega

/-- VCAP of R321 holds V after all the pushes of an image. -/
theorem fitsV_of_capacitySuffices {cfg : Config} (hsuff : capacitySuffices cfg) {v : Nat} (hv : v < 256 ^ imagePushes) :
    fitsV cfg v = true := by
  rw [fitsV_iff]
  intro k hk
  have hpow (n : Nat) : 256 ^ n = 2 ^ (8 * n) := (pow_mul 2 8 n).symm
  have hbits : 8 * imagePushes ≤ k := hsuff.1 k hk
  rw [hpow] at hv
  exact hv.trans_le (Nat.pow_le_pow_right (by decide) hbits)

section Pushes

variable {cfg : Config} {b : Bitmap} {n n' k x y : Nat} {p q : Proc} {f : Nat → Nat → Proc}

theorem PushesAtMost.mono (hp : PushesAtMost cfg b n p) (hn : n ≤ n') : PushesAtMost cfg b n' p := by
  intro m s hm hs hv
  obtain ⟨t, ht, hsource, hbound⟩ := hp m s (by omega) hs hv
  exact ⟨t, ht, hsource, hbound.trans_le (Nat.pow_le_pow_right (by decide) (by omega))⟩

theorem PushesAtMost.andThen (hp : PushesAtMost cfg b n p) (hq : PushesAtMost cfg b n' q) :
    PushesAtMost cfg b (n + n') (andThen p q) := by
  intro m s hm hs hv
  obtain ⟨u, hu, hsource, hbound⟩ := hp m s (by omega) hs hv
  rw [andThen_of_ok hu, ← Nat.add_assoc]
  exact hq (m + n) u (by omega) hsource hbound

theorem PushesAtMost.inReverse {h : Nat} (hf : OnQuadrants (fun x y => PushesAtMost cfg b n (f x y)) h x y) :
    PushesAtMost cfg b (4 * n) (inReverse f h x y) :=
  (hf.bottomRight.andThen (hf.bottomLeft.andThen (hf.topRight.andThen hf.topLeft))).mono (by omega)

theorem overRegions_pushesAtMost (hf : ∀ x y, PushesAtMost cfg b n (f x y)) (ks : List Nat) :
    PushesAtMost cfg b (ks.length * n) (overRegions f ks) := by
  induction ks with
  | nil => exact fun m s _ hs hv => ⟨s, rfl, hs, by simpa using hv⟩
  | cons k ks ih => exact ((hf _ _).andThen ih).mono (by rw [List.length_cons, Nat.succ_mul, Nat.add_comm])

section SoundRom

variable (hsuff : capacitySuffices cfg) (hrom : romWellFormed cfg)

include hsuff hrom

theorem push_pushesAtMost {t r : Nat} (ht : t < 5) (hcount : countOf cfg t r ≠ 0) :
    PushesAtMost cfg b 1 (push t r) := by
  rintro m s hm ⟨rfl, rfl⟩ hv
  obtain ⟨row, hrow, hne⟩ := countOf_ne_zero_iff.mp hcount
  have hrange := (hrom t ht).1 row (List.mem_of_getElem? hrow) (Nat.one_le_iff_ne_zero.mpr hne)
  have hbound := pushedV_lt hne hrange hv
  refine ⟨{ s with v := pushedV row s.v }, ?_, ⟨rfl, rfl⟩, hbound⟩
  rw [push_of_row hrow, if_neg hne, writeV_ok]
  exact ⟨fitsV_of_capacitySuffices hsuff (hbound.trans_le (Nat.pow_le_pow_right (by decide) hm)), rfl⟩

/-- `encode_leaf` pushes a pattern for each block. -/
theorem encodeLeaf_pushesAtMost (hcounts : OnBlocks (HasLeafCount cfg b) k x y) :
    PushesAtMost cfg b (4 ^ k) (encodeLeaf k x y) := by
  induction k generalizing x y with
  | zero =>
    rintro m s hm ⟨rfl, rfl⟩ hv
    have hcount : HasLeafCount s.cfg s.bitmap x y := onBlocks_zero.mp hcounts
    exact push_pushesAtMost hsuff hrom (by decide) hcount m s hm ⟨rfl, rfl⟩ hv
  | succ k ih =>
    rw [encodeLeaf_succ, pow_succ']
    exact .inReverse ((onBlocks_succ.mp hcounts).imp ih)

theorem encodeRegion_pushesAtMost_of_split (hencode : encodeComplete cfg)
    (hsplit : ∀ m, k = m + 1 → ∀ x y, PushesAtMost cfg b (regionPushes m) (encodeRegion m x y)) :
    PushesAtMost cfg b (regionPushes k) (encodeRegion k x y) := by
  have ⟨hlevels, hsplits, _⟩ := hencode
  obtain ⟨hempty, hfill⟩ := hlevels (3 - k) (by omega)
  have hpush {r : Nat} (hcount : countOf cfg (3 - k) r ≠ 0) : PushesAtMost cfg b 1 (push (3 - k) r) :=
    push_pushesAtMost hsuff hrom (by omega) hcount
  have hfew := four_pow_lt_regionPushes k
  rintro m s hm ⟨rfl, rfl⟩ hv
  cases hwhite : allWhite s.bitmap x y (2 ^ (k + 1)) with
  | true =>
    rw [encodeRegion_of_white hwhite]
    exact (hpush hempty).mono (Nat.one_le_of_lt hfew) m s hm ⟨rfl, rfl⟩ hv
  | false =>
    cases hblack : allBlack s.bitmap k x y with
    | true =>
      have hleaf := encodeLeaf_pushesAtMost hsuff hrom (hasLeafCount_of_black hencode hblack)
      rw [encodeRegion_of_black hwhite hblack]
      exact (hleaf.andThen (hpush hfill)).mono hfew m s hm ⟨rfl, rfl⟩ hv
    | false =>
      obtain ⟨j, rfl⟩ := exists_eq_succ_of_split hwhite hblack
      rw [encodeRegion_of_split hwhite hblack]
      exact (PushesAtMost.inReverse (onQuadrants_of_forall (hsplit j rfl))).andThen (hpush (hsplits _ (by omega))) m s hm
        ⟨rfl, rfl⟩ hv

theorem encodeRegion_pushesAtMost (hencode : encodeComplete cfg) (k x y : Nat) :
    PushesAtMost cfg b (regionPushes k) (encodeRegion k x y) := by
  induction k generalizing x y with
  | zero => exact encodeRegion_pushesAtMost_of_split hsuff hrom hencode nofun
  | succ k ih =>
    refine encodeRegion_pushesAtMost_of_split hsuff hrom hencode fun m hm => ?_
    obtain rfl := Nat.succ.inj hm
    exact ih

theorem encodeRegions_pushesAtMost (hencode : encodeComplete cfg) : PushesAtMost cfg b imagePushes encodeRegions := by
  rw [encodeRegions_eq]
  exact overRegions_pushesAtMost (encodeRegion_pushesAtMost hsuff hrom hencode 3) (List.range 9).reverse

end SoundRom

end Pushes

/-! ### The text of an ENC (R321) -/

/-- 1637 base-94 digits hold 1341 bytes. -/
theorem pow_imagePushes_le : 256 ^ imagePushes ≤ 94 ^ 1637 :=
  calc 256 ^ imagePushes = 256 ^ (68 * 19 + 49) := congrArg (256 ^ ·) imagePushes_eq
    _ = (256 ^ 68) ^ 19 * 256 ^ 49 := by rw [pow_add, pow_mul]
    _ ≤ (94 ^ 83) ^ 19 * 94 ^ 60 := Nat.mul_le_mul (Nat.pow_le_pow_left (by norm_num) 19) (by norm_num)
    _ = 94 ^ (83 * 19 + 60) := by rw [pow_add, pow_mul]
    _ = 94 ^ 1637 := congrArg (94 ^ ·) (by norm_num)

theorem length_textDigits_le {v : Nat} (hv : v < 256 ^ imagePushes) : (textDigits v).length ≤ 1637 := by
  unfold textDigits
  split
  next => decide
  next => exact (Nat.digits_length_le_iff (by decide) v).mpr (hv.trans_le pow_imagePushes_le)

theorem txout_of_capacitySuffices {s : State} (hsuff : capacitySuffices s.cfg) (hv : s.v < 256 ^ imagePushes) :
    txout s = .ok (written s) := by
  cases h : txout s with
  | ok t => rw [txout_ok h]
  | error c =>
    obtain ⟨-, k, hk, hlt⟩ := txout_error h
    exact absurd (hlt.trans_le (length_textDigits_le hv)) (hsuff.2 k hk).not_gt

/-! ### ENC completes (R240) -/

/-- The parts of an ENC that completes from `s`: the filtered bitmap is `b`, and `u` is the state before TXOUT. -/
structure EncodesTo (s : State) (b : Bitmap) (u : State) : Prop where
  filters : Filters s.cfg (fun _ => s.bitmap) s.bitmap b
  regions : encodeRegions { s with v := 0, bitmap := b } = .ok u
  source : HasSource s.cfg b u
  bound : u.v < 256 ^ imagePushes
  image : encodeImage s = .ok (written u)

theorem exists_encodesTo {s : State} (hrom : romWellFormed s.cfg) (hcomplete : filterComplete s.cfg)
    (hencode : encodeComplete s.cfg) (hsuff : capacitySuffices s.cfg) : ∃ b u, EncodesTo s b u := by
  obtain ⟨b, hb⟩ := exists_filters (causalSource_original s.bitmap) fun _ y hy x hx =>
    predict_of_filterComplete hcomplete s.bitmap hx hy
  have hfilter : filterEnc s = .ok { s with bitmap := b } := by
    rw [filterEnc_eq, (filterPass_whole_ok_iff (causalSource_original _)).mpr hb]
    rfl
  obtain ⟨u, hu, hsource, hbound⟩ :=
    encodeRegions_pushesAtMost hsuff hrom hencode 0 { s with v := 0, bitmap := b } (by omega) ⟨rfl, rfl⟩ Nat.one_pos
  rw [Nat.zero_add] at hbound
  refine ⟨b, u, hb, hu, hsource, hbound, ?_⟩
  rw [encodeImage_eq, andThen_of_ok hfilter, andThen_clearV, andThen_of_ok hu]
  exact txout_of_capacitySuffices (hsource.1 ▸ hsuff) hbound

/-- ENC writes V, R, the bitmap and the text only (R239). -/
theorem encodeImage_frame {s t : State} (h : encodeImage s = .ok t) :
    t = { s with v := t.v, r := t.r, bitmap := t.bitmap, text := t.text } := by
  have hends : Completes (.enc 48 48) s t := encodeImage_completes rfl rfl rfl rfl h
  calc t = _ := hends.same
    _ = _ := by rw [hends.ptr rfl, hends.ne rfl]

/-! ### Decoding an encoded image (R241) -/

/-- The procedure neither reads nor writes STATUS.NE and the text, which loading the text writes between ENC and DEC. -/
def IgnoresText (p : Proc) : Prop :=
  ∀ ne txt s t, p s = .ok t → p { s with ne := ne, text := txt } = .ok { t with ne := ne, text := txt }

section IgnoresText

variable {p q : Proc} {f : Nat → Nat → Proc} {k x y : Nat}

theorem IgnoresText.andThen (hp : IgnoresText p) (hq : IgnoresText q) : IgnoresText (andThen p q) := by
  intro ne txt s t h
  obtain ⟨u, hu, ht⟩ := andThen_ok.mp h
  exact (andThen_of_ok (hp ne txt s u hu)).trans (hq ne txt u t ht)

theorem IgnoresText.inOrder (hf : ∀ x y, IgnoresText (f x y)) (h x y : Nat) : IgnoresText (inOrder f h x y) :=
  (hf _ _).andThen ((hf _ _).andThen ((hf _ _).andThen (hf _ _)))

theorem pop_ignoresText (n : Nat) : IgnoresText (pop n) := by
  intro ne txt s t h
  obtain ⟨r, row, hrow, hcon, hfirst, rfl⟩ := pop_ok h
  exact pop_of_first hrow hcon hfirst

theorem decodeLeaf_ignoresText (k x y : Nat) : IgnoresText (decodeLeaf k x y) := by
  induction k generalizing x y with
  | zero =>
    refine (pop_ignoresText leafTable).andThen fun ne txt s t h => ?_
    cases h
    rfl
  | succ k ih => exact .inOrder ih _ x y

theorem decodeRegion_ignoresText_of_quadrants (hquadrants : IgnoresText (decodeQuadrants k x y)) :
    IgnoresText (decodeRegion k x y) := by
  rw [decodeRegion_eq]
  refine (pop_ignoresText (3 - k)).andThen fun ne txt s t h => ?_
  dsimp only at h ⊢
  split_ifs at h ⊢
  · cases h
    rfl
  · exact decodeLeaf_ignoresText k x y ne txt s t h
  · exact hquadrants ne txt s t h

theorem decodeRegion_ignoresText (k x y : Nat) : IgnoresText (decodeRegion k x y) := by
  induction k generalizing x y with
  | zero =>
    refine decodeRegion_ignoresText_of_quadrants fun ne txt s t h => ?_
    cases h
  | succ k ih => exact decodeRegion_ignoresText_of_quadrants (.inOrder ih _ x y)

theorem decodeRegions_ignoresText : IgnoresText decodeRegions := by
  rw [decodeRegions_eq]
  induction List.range 9 with
  | nil =>
    intro ne txt s t h
    cases h
    rfl
  | cons k ks ih => exact (decodeRegion_ignoresText 3 _ _).andThen ih

end IgnoresText

section ImageRoundTrip

variable {s u : State} {b : Bitmap}

/-- Regions encoded in reverse and decoded in order. -/
theorem overRegions_restores {src : Bitmap} {ks : List Nat} (hks : ∀ k ∈ ks, k < 9) :
    Restores src Set.univ (regions ks) (overRegions (encodeRegion 3) ks.reverse) (overRegions (decodeRegion 3) ks) := by
  induction ks with
  | nil => exact (restores_white fun _ _ h => absurd h (Set.notMem_empty _)).mono (Set.empty_subset _)
  | cons k ks ih =>
    have hregion := encodeRegion_restores (src := src) (inGrid_regionOrigin (hks k List.mem_cons_self))
    rw [List.reverse_cons, overRegions_append_singleton]
    exact (hregion.mono (Set.subset_univ _)).andThen (ih fun j hj => hks j (List.mem_cons_of_mem k hj))

/-- The nine regions decoded onto a white bitmap show the whole encoded bitmap, and V is as before the encoding. -/
theorem decodeRegions_of_encodeRegions (hrom : romWellFormed s.cfg) (h : encodeRegions s = .ok u) (r : BitVec 16) :
    ∃ r', decodeRegions { u with r := r, bitmap := whiteBitmap } = .ok { s with r := r' } := by
  rw [encodeRegions_eq] at h
  obtain ⟨-, hback⟩ := overRegions_restores (fun k => List.mem_range.mp) s u hrom rfl h
  obtain ⟨r', b, hdec, hcopy⟩ := hback r whiteBitmap fun i j _ hblack => by simp at hblack
  have hb : b = s.bitmap := bitmap_ext fun y hy x hx => (hcopy x y).1 (mem_regions_of_grid hx hy)
  rw [decodeRegions_eq, hdec, hb]
  exact ⟨r', rfl⟩

/-- Loading the text of `v` leaves `v` in V and sets NE (R161). -/
theorem loaded_textOf (v : Nat) (s : State) : loaded (textOf v) s = { s with v := v, ne := true, text := [] } := by
  have hne : textDigits v ≠ [] := List.ne_nil_of_length_pos (length_textDigits_pos v)
  rw [loaded, base94_textOf]
  simp [textOf, hne]

/-- DEC takes V of the encoded image back to the image and to 0, whatever R, the bitmap, NE and the text hold by then. -/
theorem EncodesTo.decodeImage_ok (h : EncodesTo s b u) (hrom : romWellFormed s.cfg) (r : BitVec 16) (b' : Bitmap) (ne : Bool)
    (txt : List Byte) : ∃ r', decodeImage { u with r := r, bitmap := b', ne := ne, text := txt } =
      .ok { s with v := 0, r := r', ne := ne, text := txt } := by
  obtain ⟨r', hregions⟩ := decodeRegions_of_encodeRegions (s := { s with v := 0, bitmap := b }) hrom h.regions r
  have hdecoded := decodeRegions_ignoresText ne txt _ _ hregions
  refine ⟨r', ?_⟩
  rw [decodeImage_eq, andThen_clearB]
  exact (andThen_of_ok hdecoded).trans (filterDec_of_filters (filters_original_iff_restored.mp h.filters))

end ImageRoundTrip

end Sys2Proof.Machine

namespace Sys2Proof.Proofs

open Sys2Proof.Machine

/-- Settles O59: NE alone decides. -/
theorem hdrAnswersNonEmptyText : Obligations.HdrAnswersNonEmptyText :=
  ⟨rfl, fun _ => ⟨fun h => congrArg Host.Outcome.next (if_pos h),
    fun h => congrArg Host.Outcome.next (if_neg (Bool.eq_false_iff.mp h))⟩⟩

/-- Settles O55: the body of DEC is what its components do (`does_decodeComponents`), and each part of it completes. -/
theorem decCompletesAsItsComponents : Obligations.DecCompletesAsItsComponents := by
  refine ⟨rfl, fun s herr => ⟨fun hrom hcomplete hdeep => ?_, ?_⟩⟩
  · obtain ⟨t, ht, -⟩ := decodeImage_completesWithin hrom hcomplete hdeep s rfl
    exact ⟨t, runsInside_dec.ok ht, decodeImage_frame ht, (does_decodeComponents.ok herr ht).1⟩
  · exact runsInside_dec.actsAs does_decodeComponents herr rfl

/-- Settles O56: the body of ENC is what its components do (`does_encodeComponents`), and the capacities of R321 hold V after its
pushes (`exists_encodesTo`) and its digits (`length_textDigits_le`). -/
theorem encCompletesAsItsComponents : Obligations.EncCompletesAsItsComponents := by
  refine fun s herr => ⟨fun hrom hcomplete hencode hsuff => ?_, runsInside_enc.actsAs does_encodeComponents herr rfl⟩
  obtain ⟨b, u, h⟩ := exists_encodesTo hrom hcomplete hencode hsuff
  have hlength : (written u).text.length = (textDigits u.v).length := by simp [written, textOf]
  exact ⟨written u, runsInside_enc.ok h.image, encodeImage_frame h.image, (length_textDigits_pos u.v).trans_eq hlength.symm,
    hlength.trans_le (length_textDigits_le h.bound), (does_encodeComponents.ok herr h.image).1⟩

/-- Settles O58: loading the text gives V of the encoded image again, and DEC takes it back (`EncodesTo.decodeImage_ok`). -/
theorem imageRoundTrip : Obligations.ImageRoundTrip := by
  intro s herr hrom hcomplete hencode hsuff
  obtain ⟨b, u, h⟩ := exists_encodesTo hrom hcomplete hencode hsuff
  have herru : (written u).err = false := by
    rw [encodeImage_frame h.image]
    exact herr
  have hload : presentAll (loadText (textOf u.v)) (written u) =
      .next { written u with v := u.v, ne := true, text := [] } := by
    rw [← loaded_textOf]
    refine presentAll_loadText_of_fits herru ?_
    rw [base94_textOf]
    exact fitsV_of_capacitySuffices (h.source.1 ▸ hsuff) h.bound
  obtain ⟨r', hdec⟩ := h.decodeImage_ok hrom (written u).r u.bitmap true []
  refine ⟨written u, { s with v := 0, r := r', ne := true, text := [] }, ?_, (presentAll_append hload).trans ?_, rfl, rfl,
    herr⟩
  · rw [presentAll_singleton, present_encode herr rfl, runsInside_enc.ok h.image]
  · rw [presentAll_singleton]
    refine (present_encode ?_ rfl).trans (runsInside_dec.ok hdec)
    exact herru

end Sys2Proof.Proofs

/-! PROOF. The statements of the system commands (spec/47_system.md): NOP, ECLR and SRST, and the two words a faulted machine still
executes. -/

namespace Sys2Proof.Machine

/-! ### The words of ECLR and SRST, which every machine accepts (R251, R252, R273) -/

theorem present_eclr (s : State) : present 0x70000000#32 s = .next (clearFault s) :=
  present_of_accepts_of_decode_ok (i := .eclr) (by simp [accepts]) (decode_eq_ok_iff.mpr ⟨rfl, rfl⟩)

theorem present_srst (s : State) : present 0x71000000#32 s = .next (softReset s) :=
  present_of_accepts_of_decode_ok (i := .srst) (by simp [accepts]) (decode_eq_ok_iff.mpr ⟨rfl, rfl⟩)

/-- NOP changes nothing, and a faulted machine drops it (R250, R273). -/
theorem present_nop (s : State) : present 0x00000000#32 s = .next s := by
  cases herr : s.err with
  | false => exact present_encode (i := .nop) herr rfl
  | true => exact present_of_err (i := .nop) herr Instr.noConfusion Instr.noConfusion

end Sys2Proof.Machine

namespace Sys2Proof.Proofs

open Sys2Proof.Machine

/-- Settles O60: each command writes what its rule says, and the three words are taken in both states of ERR. -/
theorem systemCommandsNopEclrSrst : Obligations.SystemCommandsNopEclrSrst :=
  ⟨rfl, rfl, rfl, fun s => ⟨rfl, rfl, rfl, present_nop s, present_eclr s, present_srst s⟩⟩

end Sys2Proof.Proofs

/-! PROOF. The statements of the exceptions (spec/60_exceptions.md): which words are illegal, what a faulted machine accepts, which
faults each command can raise (`exec_faults`, `procedure_raises`), and what a fault leaves of the state before it. -/

namespace Sys2Proof.Machine

/-! ### Illegal words (R262, R273) -/

theorem present_of_decode_error {w : Command} {s : State} {e : Illegal} (herr : s.err = false) (hd : decode w = .error e) :
    present w s = .next (raise .illegalCommand w s) :=
  present_of_accepts_of_decode_error (accepts_of_not_err herr w) hd

/-- A word that matches no row does not decode: the row of a decoded command is in the table (R94). -/
theorem decode_error_of_no_row {w : Command} (hrows : ∀ j ∈ tableCommands, j.selectedBy w = false) :
    ∃ e, decode w = .error e := by
  cases hd : decode w with
  | error e => exact ⟨e, rfl⟩
  | ok i =>
    have hi : i.selectedBy w = true := selectedBy_of_decodeRow_ok (decode_eq_ok_iff_decodeRow.mp hd).2
    obtain ⟨j, hj, hrow⟩ := List.mem_map.mp (tableRow_mem i)
    have hjw : j.selectedBy w = true := selectedBy_iff.mpr (hrow ▸ selectedBy_iff.mp hi)
    cases (hrows j hj).symm.trans hjw

/-- A word that matches a row with an operand out of range does not decode (R93). -/
theorem decode_error_of_not_wellFormed {w : Command} {i : Instr} (hrow : decodeRow w = .ok i)
    (hwf : i.wellFormed = false) : ∃ e, decode w = .error e := by
  cases hd : decode w with
  | error e => exact ⟨e, rfl⟩
  | ok j =>
    obtain ⟨hj, hjrow⟩ := decode_eq_ok_iff_decodeRow.mp hd
    cases hrow.symm.trans hjrow
    cases hwf.symm.trans hj

/-- TRD at or beyond TLEN, the one range check that reads state (R162). -/
theorem exec_trd_of_beyond {n : BitVec 16} {s : State} (hn : s.text.length ≤ n.toNat) :
    exec (.trd n) s = .next (raise .illegalCommand (encode (.trd n)) s) :=
  congrArg Host.Outcome.next (settle_of_error (readText_error.mpr ⟨hn, rfl⟩))

/-! ### ENC with other dimensions (R239, R263) -/

theorem exec_enc_of_other_dimensions {w h : Byte} (hdim : w.toNat ≠ 48 ∨ h.toNat ≠ 48) (s : State) :
    exec (.enc w h) s = .next (raise .dimensionError (encode (.enc w h)) s) :=
  congrArg Host.Outcome.next (if_pos hdim)

theorem encode_enc (w h : Byte) :
    encode (.enc w h) = BitVec.ofNat 32 (0x61000000 + w.toNat * 65536 + h.toNat * 256) :=
  packWord_eq_ofNat 0x61#8 w h 0#8

end Sys2Proof.Machine

namespace Sys2Proof.Proofs

open Sys2Proof.Machine

/-- Settles O8: `present_eclr` and `present_srst`, the words not accepted, and the two answers of the decoder. -/
theorem faultedMachineAcceptsOnlyClearing : Obligations.FaultedMachineAcceptsOnlyClearing := by
  intro s w
  refine ⟨fun _ hw => hw ▸ present_eclr s, fun _ hw => hw ▸ present_srst s, fun herr heclr hsrst => ?_,
    fun herr i => present_of_accepts_of_decode_ok (accepts_of_not_err herr w), fun herr e => present_of_decode_error herr⟩
  exact present_of_not_accepts (by simp [accepts, herr, heclr, hsrst])

/-- Settles O57: the sizes are tested before anything is written. -/
theorem encRejectsOtherDimensions : Obligations.EncRejectsOtherDimensions := by
  refine fun w h s => ⟨encode_enc w h, fun hdim => ?_⟩
  rw [exec_enc_of_other_dimensions hdim, encode_enc]
  rfl

/-- Settles O7: in every case but TRD's the word does not decode. -/
theorem illegalCommandIsPrecise : Obligations.IllegalCommandIsPrecise := by
  intro s w herr hbad
  suffices hcases : (∃ e, decode w = .error e) ∨ ∃ n, decodeRow w = .ok (.trd n) ∧ s.text.length ≤ n.toNat by
    obtain ⟨e, hd⟩ | ⟨n, hrow, hn⟩ := hcases
    · exact present_of_decode_error herr hd
    · obtain rfl := decodeRow_eq_ok_iff.mp hrow
      exact (present_encode herr rfl).trans (exec_trd_of_beyond hn)
  obtain hrows | ⟨t, hrow, ht⟩ | ⟨t, r, hrow, htr⟩ | ⟨x, y, hrow, hxy⟩ | ⟨x, y, l, hrow, hregion⟩ | htrd := hbad
  · exact .inl (decode_error_of_no_row hrows)
  · refine .inl (decode_error_of_not_wellFormed hrow ?_)
    rw [← Bool.not_eq_true, wellFormed_pop_iff]
    omega
  · refine .inl (decode_error_of_not_wellFormed hrow ?_)
    rw [← Bool.not_eq_true, wellFormed_push_iff, rowCount]
    split_ifs <;> omega
  · have hout : coordinateOk x y = false := by
      rw [← Bool.not_eq_true, coordinateOk_iff]
      omega
    obtain hrow | ⟨v, hrow⟩ | hrow := hrow
    · exact .inl (decode_error_of_not_wellFormed hrow ((wellFormed_of_coordinate (.inl rfl)).trans hout))
    · exact .inl (decode_error_of_not_wellFormed hrow ((wellFormed_of_coordinate (.inr (.inl ⟨v, rfl⟩))).trans hout))
    · exact .inl (decode_error_of_not_wellFormed hrow ((wellFormed_of_coordinate (.inr (.inr rfl))).trans hout))
  · have hout : regionOk x y l = false := Bool.eq_false_iff.mpr (mt (regionOk_iff x y l).mp hregion)
    obtain ⟨i, hi, hrow⟩ : ∃ i, (i = .dleaf x y l ∨ i = .drg x y l ∨ i = .eleaf x y l ∨ i = .erg x y l) ∧
        decodeRow w = .ok i := by simpa using hrow
    exact .inl (decode_error_of_not_wellFormed hrow ((wellFormed_of_region hi).trans hout))
  · exact .inr htrd

end Sys2Proof.Proofs

namespace Sys2Proof.Machine

/-! ### The causes a procedure can raise (R265 to R268) -/

/-- The procedure raises no fault but those in `cs`. -/
def RaisesOnly (cs : List FaultCause) (p : Proc) : Prop := ∀ s c, p s = .error c → c ∈ cs

/-- The causes that are raised while a command is at work; the other three are tested before (R262, R263, R264, R271). -/
def insideCauses : List FaultCause := [.modelFault, .divideByZero, .capacityFault]

section Raises

variable {cs ds : List FaultCause} {p q : Proc} {f : Nat → Nat → Proc} {t r k x y : Nat}

theorem RaisesOnly.mono (hp : RaisesOnly cs p) (hsub : cs ⊆ ds) : RaisesOnly ds p :=
  fun s c h => hsub (hp s c h)

theorem RaisesOnly.andThen (hp : RaisesOnly cs p) (hq : RaisesOnly cs q) : RaisesOnly cs (andThen p q) := by
  intro s c h
  obtain h | ⟨u, -, h⟩ := andThen_error.mp h
  · exact hp s c h
  · exact hq u c h

theorem RaisesOnly.inOrder (hf : ∀ x y, RaisesOnly cs (f x y)) (h x y : Nat) : RaisesOnly cs (inOrder f h x y) :=
  (hf _ _).andThen ((hf _ _).andThen ((hf _ _).andThen (hf _ _)))

theorem RaisesOnly.inReverse (hf : ∀ x y, RaisesOnly cs (f x y)) (h x y : Nat) : RaisesOnly cs (inReverse f h x y) :=
  (hf _ _).andThen ((hf _ _).andThen ((hf _ _).andThen (hf _ _)))

theorem RaisesOnly.overRegions (hf : ∀ x y, RaisesOnly cs (f x y)) (ks : List Nat) :
    RaisesOnly cs (overRegions f ks) := by
  induction ks with
  | nil => exact fun s c h => by cases h
  | cons k ks ih => exact (hf _ _).andThen ih

theorem writeV_raises (v : Nat) : RaisesOnly [.capacityFault] (writeV v) :=
  fun _ _ h => List.mem_singleton.mpr (writeV_error.mp h).2

theorem divideV_error {d : Nat} {s : State} {c : FaultCause} : divideV d s = .error c ↔ d = 0 ∧ c = .divideByZero := by
  unfold divideV
  split
  next hd => simp [hd, eq_comm]
  next hd => simp [hd]

theorem pop_raises (t : Nat) : RaisesOnly [.modelFault] (pop t) :=
  fun _ _ h => List.mem_singleton.mpr (pop_error.mp h).1

/-- A push of a row the table has is never illegal (R140). -/
theorem push_raises (hr : r < rowCount t) : RaisesOnly [.divideByZero, .capacityFault] (push t r) := by
  intro s c h
  have hrow := List.getElem?_eq_getElem (l := tableRows s.cfg t) (by rwa [length_tableRows])
  rw [push_of_row hrow] at h
  split at h
  · cases h
    simp
  · exact List.mem_cons_of_mem _ (writeV_raises _ s c h)

theorem decodeLeaf_raises (k x y : Nat) : RaisesOnly [.modelFault] (decodeLeaf k x y) := by
  induction k generalizing x y with
  | zero => exact (pop_raises leafTable).andThen fun s c h => by cases h
  | succ k ih => exact .inOrder ih _ x y

theorem decodeRegion_raises_of_quadrants (hquadrants : RaisesOnly [.modelFault] (decodeQuadrants k x y)) :
    RaisesOnly [.modelFault] (decodeRegion k x y) := by
  rw [decodeRegion_eq]
  refine (pop_raises (3 - k)).andThen fun s c h => ?_
  split_ifs at h
  · exact decodeLeaf_raises k x y s c h
  · exact hquadrants s c h

theorem decodeRegion_raises (k x y : Nat) : RaisesOnly [.modelFault] (decodeRegion k x y) := by
  induction k generalizing x y with
  | zero =>
    refine decodeRegion_raises_of_quadrants fun s c h => ?_
    cases h
    exact List.mem_singleton_self _
  | succ k ih => exact decodeRegion_raises_of_quadrants (.inOrder ih _ x y)

theorem encodeLeaf_raises (k x y : Nat) : RaisesOnly [.divideByZero, .capacityFault] (encodeLeaf k x y) := by
  induction k generalizing x y with
  | zero => exact fun s => push_raises (blockPattern_lt s.bitmap x y) s
  | succ k ih => exact .inReverse ih _ x y

theorem encodeRegion_raises_of_split
    (hsplit : ∀ m, k = m + 1 → ∀ x y, RaisesOnly [.divideByZero, .capacityFault] (encodeRegion m x y)) :
    RaisesOnly [.divideByZero, .capacityFault] (encodeRegion k x y) := by
  have hpush {r : Nat} (hr : r < 3) : RaisesOnly [.divideByZero, .capacityFault] (push (3 - k) r) :=
    push_raises (by rwa [rowCount, if_pos (Nat.sub_le 3 k)])
  intro s
  cases hwhite : allWhite s.bitmap x y (2 ^ (k + 1)) with
  | true =>
    rw [encodeRegion_of_white hwhite]
    exact hpush (by decide) s
  | false =>
    cases hblack : allBlack s.bitmap k x y with
    | true =>
      rw [encodeRegion_of_black hwhite hblack]
      exact (encodeLeaf_raises k x y).andThen (hpush (by decide)) s
    | false =>
      obtain ⟨m, rfl⟩ := exists_eq_succ_of_split hwhite hblack
      rw [encodeRegion_of_split hwhite hblack]
      exact (RaisesOnly.inReverse (hsplit m rfl) _ x y).andThen (hpush (by decide)) s

theorem encodeRegion_raises (k x y : Nat) : RaisesOnly [.divideByZero, .capacityFault] (encodeRegion k x y) := by
  induction k generalizing x y with
  | zero => exact encodeRegion_raises_of_split nofun
  | succ k ih =>
    refine encodeRegion_raises_of_split fun m hm => ?_
    obtain rfl := Nat.succ.inj hm
    exact ih

/-- A pass over the bitmap faults where a prediction does (R265). -/
theorem filterPass_raises {cfg : Config} {src : Bitmap → Bitmap} {g : Bitmap} {n : Nat} {c : FaultCause}
    (h : filterPass cfg src g n = .error c) : c ∈ [FaultCause.modelFault] := by
  obtain ⟨i, -, a, herror⟩ := filterPass_error h
  exact List.mem_singleton.mpr (eq_modelFault_of_predict_error herror)

theorem filterEnc_raises : RaisesOnly [.modelFault] filterEnc := by
  intro s c h
  obtain h | ⟨b, -, h⟩ := bind_eq_error.mp h
  · exact filterPass_raises h
  · cases h

theorem filterDec_raises : RaisesOnly [.modelFault] filterDec := by
  intro s c h
  obtain h | ⟨b, -, h⟩ := bind_eq_error.mp h
  · exact filterPass_raises h
  · cases h

theorem txout_raises : RaisesOnly [.capacityFault] txout :=
  fun _ _ h => List.mem_singleton.mpr (txout_error h).1

theorem clearB_raises : RaisesOnly cs clearB := nofun

theorem clearV_raises : RaisesOnly cs clearV := nofun

theorem decodeImage_raises : RaisesOnly [.modelFault] decodeImage := by
  rw [decodeImage_eq, decodeRegions_eq]
  exact clearB_raises.andThen ((RaisesOnly.overRegions (decodeRegion_raises 3) _).andThen filterDec_raises)

theorem encodeImage_raises : RaisesOnly insideCauses encodeImage := by
  have hregions : RaisesOnly insideCauses encodeRegions := by
    rw [encodeRegions_eq]
    exact (RaisesOnly.overRegions (encodeRegion_raises 3) _).mono (by decide)
  rw [encodeImage_eq]
  exact (filterEnc_raises.mono (by decide)).andThen
    (clearV_raises.andThen (hregions.andThen (txout_raises.mono (by decide))))

end Raises

/-! ### The procedure of a command (R271, R272) -/

/-- What a command does once its operands are in range, its own faults included. -/
def procedure : Instr → Proc
  | .nop => .ok
  | .vclr => clearV
  | .vmad m add => fun s => writeV (mulAdd s.v m.toNat add.toNat) s
  | .vdiv d => divideV d.toNat
  | .vrd i => fun s => .ok { s with r := BitVec.ofNat 16 (byteOfV s.v i.toNat) }
  | .pop t => pop t.toNat
  | .push t r => push t.toNat r.toNat
  | .txbeg => fun s => .ok { s with v := 0, ne := false, text := [] }
  | .txin ch => foldCharacter ch
  | .txdig => txdig
  | .txrev => fun s => .ok (txrev s)
  | .txout => txout
  | .trd i => readText i.toNat
  | .bclr => clearB
  | .bptr x y => fun s => .ok { s with ptr := BitVec.ofNat 12 (rasterIndex x.toNat y.toNat) }
  | .bbit v => fun s => .ok (streamPixel (v == 1#1) s)
  | .brgb red green blue => fun s => .ok (streamPixel (isBlack red green blue) s)
  | .brd => fun s => .ok { s with r := pixelWord (pixel s.bitmap s.ptr.toNat), ptr := advancePtr s.ptr }
  | .bset x y v => fun s => .ok { s with bitmap := setPixelAt s.bitmap x.toNat y.toNat (v == 1#1) }
  | .bget x y => fun s => .ok { s with r := pixelWord (pixelAt s.bitmap x.toNat y.toNat) }
  | .dleaf x y l => decodeLeaf (regionHeight l) x.toNat y.toNat
  | .drg x y l => decodeRegion (regionHeight l) x.toNat y.toNat
  | .eleaf x y l => encodeLeaf (regionHeight l) x.toNat y.toNat
  | .erg x y l => encodeRegion (regionHeight l) x.toNat y.toNat
  | .fenc => filterEnc
  | .fdec => filterDec
  | .dec => decodeImage
  | .enc w h => fun s => if w.toNat ≠ 48 ∨ h.toNat ≠ 48 then .error .dimensionError else encodeImage s
  | .hdr => fun s => if s.ne then .ok { s with r := sizeWord } else .error .formatError
  | .eclr => fun s => .ok (clearFault s)
  | .srst => fun s => .ok (softReset s)

section Procedure

variable {i : Instr} {s t : State}

theorem procedure_enc_of_other_dimensions {w h : Byte} (hdim : w.toNat ≠ 48 ∨ h.toNat ≠ 48) (s : State) :
    procedure (.enc w h) s = .error .dimensionError :=
  if_pos hdim

theorem procedure_enc_of_dimensions {w h : Byte} (hdim : ¬ (w.toNat ≠ 48 ∨ h.toNat ≠ 48)) :
    procedure (.enc w h) = encodeImage :=
  funext fun _ => if_neg hdim

theorem exec_enc_of_dimensions {w h : Byte} (hdim : ¬ (w.toNat ≠ 48 ∨ h.toNat ≠ 48)) (s : State) :
    exec (.enc w h) s = .next (settleMacro (encode (.enc w h)) encFootprint encodeImage s) :=
  congrArg Host.Outcome.next (if_neg hdim)

/-- A primitive command ends as its procedure does, its fault precise (R271). -/
theorem exec_of_primitive (hwf : i.wellFormed = true) (hm : isMacro i = false) (s : State) :
    exec i s = .next (settle (encode i) (procedure i) s) := by
  cases i with
  | pop | push | bptr | bset | bget => exact congrArg Host.Outcome.next (checked_of_wellFormed hwf)
  | dleaf | drg | eleaf | erg | fenc | fdec | txout | dec | enc => cases hm
  | hdr => cases hne : s.ne <;> simp [exec, execHdr, settle, procedure, hne]
  | _ => rfl

/-- A command of many steps ends as its procedure does, except that ENC tests its dimensions before it begins (R263, R272). -/
theorem exec_of_macro (hwf : i.wellFormed = true) (hm : isMacro i = true) (s : State) :
    procedure i s = .error .dimensionError ∧ exec i s = .next (raise .dimensionError (encode i) s) ∨
      (∀ c, procedure i s = .error c → c ∈ insideCauses) ∧
        exec i s = .next (settleMacro (encode i) (mayWrite i) (procedure i) s) := by
  cases i with
  | dleaf x y l => exact .inr ⟨(decodeLeaf_raises _ _ _).mono (by decide) s, congrArg _ (checked_of_wellFormed hwf)⟩
  | drg x y l => exact .inr ⟨(decodeRegion_raises _ _ _).mono (by decide) s, congrArg _ (checked_of_wellFormed hwf)⟩
  | eleaf x y l => exact .inr ⟨(encodeLeaf_raises _ _ _).mono (by decide) s, congrArg _ (checked_of_wellFormed hwf)⟩
  | erg x y l => exact .inr ⟨(encodeRegion_raises _ _ _).mono (by decide) s, congrArg _ (checked_of_wellFormed hwf)⟩
  | fenc => exact .inr ⟨filterEnc_raises.mono (by decide) s, rfl⟩
  | fdec => exact .inr ⟨filterDec_raises.mono (by decide) s, rfl⟩
  | txout => exact .inr ⟨txout_raises.mono (by decide) s, rfl⟩
  | dec => exact .inr ⟨decodeImage_raises.mono (by decide) s, rfl⟩
  | enc w h =>
    by_cases hdim : w.toNat ≠ 48 ∨ h.toNat ≠ 48
    · exact .inl ⟨procedure_enc_of_other_dimensions hdim s, exec_enc_of_other_dimensions hdim s⟩
    · rw [procedure_enc_of_dimensions hdim]
      exact .inr ⟨encodeImage_raises s, exec_enc_of_dimensions hdim s⟩
  | _ => cases hm

/-- A command whose operands are in range raises the causes of its row only (R268). -/
theorem procedure_raises (hwf : i.wellFormed = true) : RaisesOnly (mayRaise i) (procedure i) := by
  cases i with
  | vmad m add => exact fun s => writeV_raises _ s
  | vdiv d => exact fun s c h => List.mem_singleton.mpr (divideV_error.mp h).2
  | pop t => exact pop_raises t.toNat
  | push t r => exact push_raises ((wellFormed_push_iff t r).mp hwf).2
  | txin ch => exact fun s c h => List.mem_singleton.mpr (foldCharacter_error.mp h).2.2
  | txdig => exact fun s c h => List.mem_singleton.mpr (txdig_error.mp h).2
  | txout => exact txout_raises
  | trd n => exact fun s c h => List.mem_singleton.mpr (readText_error.mp h).2
  | dleaf x y l => exact decodeLeaf_raises _ _ _
  | drg x y l => exact decodeRegion_raises _ _ _
  | eleaf x y l => exact encodeLeaf_raises _ _ _
  | erg x y l => exact encodeRegion_raises _ _ _
  | fenc => exact filterEnc_raises
  | fdec => exact filterDec_raises
  | dec => exact decodeImage_raises
  | enc w h =>
    by_cases hdim : w.toNat ≠ 48 ∨ h.toNat ≠ 48
    · intro s c hc
      cases (procedure_enc_of_other_dimensions hdim s).symm.trans hc
      exact List.mem_cons_self
    · rw [procedure_enc_of_dimensions hdim]
      exact encodeImage_raises.mono (List.subset_cons_self _ _)
  | hdr =>
    intro s c hc
    dsimp only [procedure] at hc
    split at hc
    · cases hc
    · cases hc
      exact List.mem_singleton_self _
  | _ => exact fun s c h => by cases h

/-- A command that completes records no fault (R30). -/
theorem procedure_keeps_not_err (herr : s.err = false) (h : procedure i s = .ok t) : t.err = false := by
  have hcompletes (hj : Completes i s t) : t.err = false := hj.err.trans herr
  cases i with
  | vmad m add => exact hcompletes (writeV_completes rfl h)
  | vdiv d => exact hcompletes (divideV_completes rfl rfl h)
  | pop n => exact hcompletes (pop_completes rfl rfl h)
  | push n r => exact hcompletes (push_completes rfl h)
  | txin ch => exact hcompletes (foldCharacter_completes rfl rfl h)
  | txdig => exact hcompletes (txdig_completes rfl rfl rfl h)
  | txout => exact hcompletes (txout_completes rfl rfl rfl h)
  | trd n => exact hcompletes (readText_completes rfl h)
  | dleaf x y l => exact hcompletes (decodeLeaf_completes rfl rfl rfl h)
  | drg x y l => exact hcompletes (decodeRegion_completes rfl rfl rfl h)
  | eleaf x y l => exact hcompletes (encodeLeaf_completes rfl h)
  | erg x y l => exact hcompletes (encodeRegion_completes rfl h)
  | fenc => exact hcompletes (filterEnc_completes rfl h)
  | fdec => exact hcompletes (filterDec_completes rfl h)
  | dec => exact hcompletes (decodeImage_completes rfl rfl rfl h)
  | enc w h' =>
    dsimp only [procedure] at h
    split at h
    · cases h
    · exact hcompletes (encodeImage_completes rfl rfl rfl rfl h)
  | hdr =>
    dsimp only [procedure] at h
    split at h <;> cases h
    exact herr
  | eclr | srst => cases h; rfl
  | _ => cases h; exact herr

/-- How a command that leaves a fault recorded has ended: its procedure raised the fault, before anything was written or inside
a command of many steps (R271, R272). -/
inductive Faulted (i : Instr) (s : State) : FaultCause → State → Prop where
  /-- The fault is precise. -/
  | precise {c : FaultCause} (h : procedure i s = .error c) : Faulted i s c (raise c (encode i) s)
  /-- The fault was raised with the command at work. -/
  | inside {c : FaultCause} (h : procedure i s = .error c) (hm : isMacro i = true) (hc : c ∈ insideCauses) :
    Faulted i s c (raise c (encode i) (scramble (mayWrite i) s))

theorem Faulted.procedure_eq {c : FaultCause} (h : Faulted i s c t) : procedure i s = .error c ∧ t.cause = some c := by
  cases h with
  | precise h => exact ⟨h, rfl⟩
  | inside h => exact ⟨h, rfl⟩

theorem exec_faulted (hwf : i.wellFormed = true) (herr : s.err = false) (h : exec i s = .next t) (ht : t.err = true) :
    ∃ c, Faulted i s c t := by
  have hcompleted (hp : procedure i s = .ok t) : False :=
    absurd (ht.symm.trans (procedure_keeps_not_err herr hp)) (by decide)
  cases hm : isMacro i with
  | false =>
    cases (exec_of_primitive hwf hm s).symm.trans h
    obtain ⟨u, hu, he⟩ | ⟨c, hc, he⟩ := settle_cases (encode i) (procedure i) s
    · exact (hcompleted (he ▸ hu)).elim
    · exact ⟨c, he ▸ .precise hc⟩
  | true =>
    obtain ⟨hdim, hexec⟩ | ⟨hinside, hexec⟩ := exec_of_macro hwf hm s
    · cases hexec.symm.trans h
      exact ⟨_, .precise hdim⟩
    · cases hexec.symm.trans h
      obtain ⟨u, hu, he⟩ | ⟨c, hc, he⟩ := settleMacro_cases (encode i) (mayWrite i) (procedure i) s
      · exact (hcompleted (he ▸ hu)).elim
      · exact ⟨c, he ▸ .inside hc hm (hinside c hc)⟩

end Procedure

/-! ### What is left on a sound ROM (R268) -/

/-- The ROM of R268, with unbounded capacities. -/
structure SoundRom (cfg : Config) : Prop where
  rom : romWellFormed cfg
  filter : filterComplete cfg
  encode : encodeComplete cfg
  deep : noDeepSplit cfg
  vcap : cfg.vcap = none
  tcap : cfg.tcap = none

/-- The faults of R268 that a sound ROM leaves, besides the causes 1, 2 and 3. -/
def LeftOnSoundRom (i : Instr) (s : State) : Prop :=
  i = .vdiv 0 ∨ (∃ a r, i = .push a r ∧ countOf s.cfg a.toNat r.toNat = 0) ∨
    ∃ x y l, i = .eleaf x y l ∧ ∃ bx < 8 / 2 ^ l.toNat, ∃ by' < 8 / 2 ^ l.toNat,
      countOf s.cfg leafTable (blockPattern s.bitmap (x.toNat + 2 * bx) (y.toNat + 2 * by')) = 0

section SoundRom

variable {cfg : Config} {s : State} {c : FaultCause}

theorem CompletesWithin.not_error {I : State → Prop} {p : Proc} (hp : CompletesWithin I p) (hs : I s) : p s ≠ .error c := by
  obtain ⟨t, ht, -⟩ := hp s hs
  rw [ht]
  exact nofun

theorem SoundRom.capacitySuffices (h : SoundRom cfg) : capacitySuffices cfg := by
  simp [Machine.capacitySuffices, h.vcap, h.tcap]

theorem SoundRom.fitsV (h : SoundRom cfg) (v : Nat) : fitsV cfg v = true := by
  simp [fitsV_iff, h.vcap]

theorem SoundRom.textHasRoom (h : SoundRom s.cfg) : textHasRoom s = true := by
  simp [textHasRoom_iff, h.tcap]

theorem filterEnc_completesWithin (hcomplete : filterComplete cfg) : CompletesWithin (HasConfig cfg) filterEnc := by
  rintro s rfl
  obtain ⟨b, hb⟩ := exists_filters (causalSource_original s.bitmap) fun _ y hy x hx =>
    predict_of_filterComplete hcomplete s.bitmap hx hy
  refine ⟨{ s with bitmap := b }, ?_, rfl⟩
  rw [filterEnc_eq, (filterPass_whole_ok_iff (causalSource_original _)).mpr hb]
  rfl

/-- ELEAF on a sound ROM faults where the pattern of a block has no count (R201). -/
theorem exists_block_of_encodeLeaf_error (hsound : SoundRom s.cfg) {k x y : Nat} (h : encodeLeaf k x y s = .error c) :
    ∃ i < 2 ^ k, ∃ j < 2 ^ k, countOf s.cfg leafTable (blockPattern s.bitmap (x + 2 * i) (y + 2 * j)) = 0 := by
  by_contra hnone
  push Not at hnone
  obtain ⟨t, ht, -⟩ :=
    (encodeLeaf_decidedBy hsound.vcap k x y s (⟨rfl, rfl⟩ : HasSource s.cfg s.bitmap s)).1 hnone
  cases ht.symm.trans h

theorem left_of_procedure_error {i : Instr} (hwf : i.wellFormed = true) (hsound : SoundRom s.cfg)
    (h : procedure i s = .error c) :
    (c = .illegalCommand ∨ c = .dimensionError ∨ c = .formatError) ∨ LeftOnSoundRom i s := by
  have hmay := procedure_raises hwf s c h
  have hcfg : HasConfig s.cfg s := rfl
  have hsource : HasSource s.cfg s.bitmap s := ⟨rfl, rfl⟩
  cases i with
  | trd n => exact .inl (.inl (List.mem_singleton.mp hmay))
  | hdr => exact .inl (.inr (.inr (List.mem_singleton.mp hmay)))
  | vdiv d =>
    have hd : d.toNat = 0 := (divideV_error.mp h).1
    exact .inr (.inl (congrArg Instr.vdiv (BitVec.eq_of_toNat_eq hd)))
  | push a r =>
    refine .inr (.inr (.inl ⟨a, r, rfl, ?_⟩))
    by_contra hcount
    obtain ⟨t, ht⟩ := exists_push hsound.vcap hcount
    cases ht.symm.trans h
  | eleaf x y l =>
    refine .inr (.inr (.inr ⟨x, y, l, rfl, ?_⟩))
    rw [two_pow_regionHeight]
    exact exists_block_of_encodeLeaf_error hsound h
  | vmad m add => cases (hsound.fitsV _).symm.trans (writeV_error.mp h).1
  | txin ch => cases (hsound.fitsV _).symm.trans (foldCharacter_error.mp h).2.1
  | txdig => cases hsound.textHasRoom.symm.trans (txdig_error.mp h).1
  | txout =>
    obtain ⟨-, k, hk, -⟩ := txout_error h
    cases hsound.tcap.symm.trans hk
  | pop t =>
    have ht := (wellFormed_pop_iff t).mp hwf
    exact absurd h ((pop_completesWithin (hsound.rom t.toNat (Nat.lt_succ_of_le ht))).not_error hcfg)
  | dleaf x y l => exact absurd h ((decodeLeaf_completesWithin (hsound.rom leafTable (by decide)) _ _ _).not_error hcfg)
  | drg x y l => exact absurd h ((decodeRegion_completesWithin hsound.rom hsound.deep _ _ _).not_error hcfg)
  | erg x y l => exact absurd h ((encodeRegion_completesWithin hsound.encode hsound.vcap _ _ _).not_error hsource)
  | fenc => exact absurd h ((filterEnc_completesWithin hsound.filter).not_error hcfg)
  | fdec => exact absurd h ((filterDec_completesWithin hsound.filter).not_error hcfg)
  | dec => exact absurd h ((decodeImage_completesWithin hsound.rom hsound.filter hsound.deep).not_error hcfg)
  | enc w h' =>
    dsimp only [procedure] at h
    split at h
    · cases h
      exact .inl (.inr (.inl rfl))
    · obtain ⟨b, u, henc⟩ := exists_encodesTo hsound.rom hsound.filter hsound.encode hsound.capacitySuffices
      cases henc.image.symm.trans h
  | _ => cases hmay

end SoundRom

end Sys2Proof.Machine

namespace Sys2Proof.Proofs

open Sys2Proof.Machine

/-- Settles O17: the fault is one of the procedure (`exec_faulted`), whose causes and whose completion on a sound ROM are known. -/
theorem faultsEachCommandRaises : Obligations.FaultsEachCommandRaises := by
  intro i s t hwf herr hexec ht
  obtain ⟨c, hfaulted⟩ := exec_faulted hwf herr hexec ht
  obtain ⟨hproc, hcause⟩ := hfaulted.procedure_eq
  refine ⟨⟨c, procedure_raises hwf s c hproc, hcause⟩, fun hrom hfilter hencode hdeep hvcap htcap => ?_⟩
  simp only [hcause, Option.some.injEq]
  exact left_of_procedure_error hwf ⟨hrom, hfilter, hencode, hdeep, hvcap, htcap⟩ hproc

/-- Settles O18: a word that does not decode writes nothing else, and only a command of many steps leaves its writes open,
with one of the other three causes. -/
theorem faultsArePrecise : Obligations.FaultsArePrecise := by
  intro w s t c herr hpresent ht hcause hprecise
  have haccepts := accepts_of_not_err herr w
  cases hd : decode w with
  | error e =>
    cases (present_of_accepts_of_decode_error haccepts hd).symm.trans hpresent
    cases hcause
    rfl
  | ok i =>
    obtain ⟨hwf, rfl⟩ := decode_eq_ok_iff.mp hd
    obtain ⟨c', hfaulted⟩ := exec_faulted hwf herr ((present_of_accepts_of_decode_ok haccepts hd).symm.trans hpresent) ht
    cases hfaulted with
    | precise h =>
      cases hcause
      rfl
    | inside h hm hc =>
      cases hcause
      obtain hprimitive | hbefore := hprecise
      · cases (hprimitive i hd).symm.trans hm
      · obtain rfl | rfl | rfl := hbefore <;> exact absurd hc (by decide)

/-- Settles O19: every way a command can end keeps the invariant (`Ends.inv`), and a fault leaves at most what the command may
write open (`scramble_mayWrite`). -/
theorem macroFaultScope : Obligations.MacroFaultScope := by
  intro i s t c hinv hm herr hexec ht hcause _
  have hends := exec_ends hexec
  obtain ⟨-, hfits, htext, -⟩ := hends.inv hinv
  rw [fitsV_iff, hends.cfg] at hfits
  rw [memoryWf_iff, hends.cfg] at htext
  cases hends with
  | completes h => cases (h.err.trans herr).symm.trans ht
  | faults c => exact ⟨rfl, rfl, rfl, fun _ => rfl, fun _ => rfl, fun _ => rfl, fun _ => rfl, hfits, htext⟩
  | faultsInside c =>
    obtain ⟨hv, hr, hb, htxt⟩ := scramble_mayWrite i s
    exact ⟨rfl, rfl, rfl, hv, hr, htxt, hb, hfits, htext⟩
  | clears => cases ht
  | resets => cases ht

end Sys2Proof.Proofs
